-- ==== Sys2Proof/Word.lean ====
section
/-! DEFINITION. The two value types of the block's ports (spec 00_scope.md R6, 10_state.md R12, R13). -/

namespace Sys2Proof

/-- A 16-bit value: the `a` and `y` ports and the two device registers. -/
abbrev Word := BitVec 16

/-- An 8-bit value: the `op`, `b` and `x` ports, a register pointer, a byte on the wire. -/
abbrev Byte := BitVec 8

end Sys2Proof
end

