-- ==== Sys2Proof/Config.lean ====
section
/-! DEFINITION. The constant record `Config` (spec 00_scope.md R4) and the free values: what the spec leaves OPEN or
calls "any value". A free value is a constant with no body, so that no proof can know it. The values this hardware
gives the other fields, and the well-formedness of a `Config`, are in Machine/Params.lean. -/

namespace Sys2Proof

/-- R4: the parameters of one hardware. Index types carry the ranges of R4 (`MA_GAIN` is a gain index 0..5). -/
structure Config where
  /-- `OS_START`, bit 15 of every encoded value (R46). -/
  osStart : BitVec 1
  /-- `MUX_SE[0..3]` (R47). -/
  muxSe0 : BitVec 3
  muxSe1 : BitVec 3
  muxSe2 : BitVec 3
  muxSe3 : BitVec 3
  /-- `MUX_D01`, `MUX_D23` (R47). -/
  muxD01 : BitVec 3
  muxD23 : BitVec 3
  /-- `PGA[0..5]` (R48). -/
  pga0 : BitVec 3
  pga1 : BitVec 3
  pga2 : BitVec 3
  pga3 : BitVec 3
  pga4 : BitVec 3
  pga5 : BitVec 3
  /-- `MODE_SINGLE`, `DR_1600`, `COMP_DEFAULT` (R49). -/
  modeSingle : BitVec 1
  dr1600 : BitVec 3
  compDefault : BitVec 5
  /-- `PACK_CH`, `PACK_GAIN`, `CHGV_CH`, `CHGV_GAIN` (R73). -/
  packCh : Fin 4
  packGain : Fin 6
  chgvCh : Fin 4
  chgvGain : Fin 6
  /-- `PACK_NUM`, `PACK_DEN` (R77), `CHGV_NUM`, `CHGV_DEN` (R78), `MA_NUM`, `MA_DEN` (R79). -/
  packNum : Nat
  packDen : Nat
  chgvNum : Nat
  chgvDen : Nat
  maNum : Nat
  maDen : Nat
  /-- `MA_GAIN` and `MA_NEGATE`, OPEN (R76, R79). -/
  maGain : Fin 6
  maNegate : BitVec 1
  /-- `DEV_ADDR`, OPEN (R33). -/
  devAddr : BitVec 7
  /-- `BUS_TIMEOUT_MS` (R34). -/
  busTimeoutMs : Nat
  /-- `CONV_DELAY`, OPEN (R111), counted here in microseconds (DESIGN CHOICE, safe: log entry 14). -/
  convDelay : Nat
  deriving DecidableEq, Repr

/-- R34: how the transport answers one call. An input of the machine.
* `ok`: the call succeeds; a receive delivers the bytes the device holds.
* `deliver bs`: the call succeeds; a receive delivers `bs`, "any byte values", of whatever number (R32, R34).
* `fail reached`: the call fails; `reached` says whether the bytes of a transmit reached the device all the same
  (R95, U13: both are allowed). -/
inductive BusReply where
  | ok
  | deliver (bs : List Byte)
  | fail (reached : Bool)
  deriving DecidableEq, Repr, Inhabited

/-- OPEN in R4 (D15): the gain index of the charger-current measurement. DESIGN CHOICE, safe: log entry 3. -/
opaque Config.openMaGain : Fin 6
/-- OPEN in R4 (D15): the sign convention of the charger current. DESIGN CHOICE, safe: log entry 3. -/
opaque Config.openMaNegate : BitVec 1
/-- OPEN in R4 (D16): the device's bus address. DESIGN CHOICE, safe: log entry 3. -/
opaque Config.openDevAddr : BitVec 7
/-- OPEN in R4 (D17): the conversion delay. DESIGN CHOICE, safe: log entry 3. -/
opaque Config.openConvDelay : Nat

/-- R24, R109, U5: what the device holds at the start of a run is any value. DESIGN CHOICE: log entry 9. -/
opaque Config.powerOnConf : Word
opaque Config.powerOnConv : Word
opaque Config.powerOnPtr : Byte
opaque Config.powerOnInFlight : Option (Word × Nat)

/-- R34: the transport's answer to a call that the input list does not cover (log entry 11). -/
opaque Config.freeReply : Nat → BusReply
/-- R3 (e), R27: the result of a conversion that the input list does not cover; it may depend on the configuration
word that started it (log entry 13). -/
opaque Config.freeConversion : Nat → Word → Word
/-- R111, U4: the value of a conversion-register read that the spec does not define (log entries 14, 15). -/
opaque Config.freeRead : Nat → Word
/-- U14: bit 15 of the configuration register when it is read (log entry 17). -/
opaque Config.freeStatusBit : Nat → BitVec 1
/-- U3: the bytes a failed or short receive leaves in the host's buffer (log entry 19). -/
opaque Config.freeByte : Nat → Nat → Byte

end Sys2Proof
end

