-- ==== Sys2Proof/Machine/Params.lean ====
section
/-! DEFINITION. The values this hardware gives the fields of `Config` (spec 00_scope.md R4), the field codes by index,
and the well-formedness of a `Config` (spec 30_encoding.md R50, 43_calibration.md R80). -/

namespace Sys2Proof

/-- R44: an input selection. -/
inductive Selection where
  /-- single-ended channel 0..3 -/
  | se (ch : Fin 4)
  /-- channel 0 minus channel 1 -/
  | d01
  /-- channel 2 minus channel 3 -/
  | d23
  deriving DecidableEq, Repr

/-- R44: the selection id, 0..5. -/
def Selection.id : Selection → Byte
  | .se ch => BitVec.ofNat 8 ch.val
  | .d01 => 4#8
  | .d23 => 5#8

/-- The six selections in the order of their ids (R44, R67). -/
def Selection.all : List Selection := [.se 0, .se 1, .se 2, .se 3, .d01, .d23]

/-- The six gain indices (R43). -/
def gainIndices : List (Fin 6) := [0, 1, 2, 3, 4, 5]

/-- R47: `MUX_SE[ch]`. -/
def Config.muxSe (c : Config) : Fin 4 → BitVec 3
  | 0 => c.muxSe0
  | 1 => c.muxSe1
  | 2 => c.muxSe2
  | 3 => c.muxSe3

/-- R47: the multiplexer code of a selection. -/
def Config.mux (c : Config) : Selection → BitVec 3
  | .se ch => c.muxSe ch
  | .d01 => c.muxD01
  | .d23 => c.muxD23

/-- R48: `PGA[g]`. -/
def Config.pga (c : Config) : Fin 6 → BitVec 3
  | 0 => c.pga0
  | 1 => c.pga1
  | 2 => c.pga2
  | 3 => c.pga3
  | 4 => c.pga4
  | 5 => c.pga5

/-- R50: the six multiplexer codes are pairwise different and the six gain codes are pairwise different. -/
def Config.codesWf (c : Config) : Bool :=
  decide (Selection.all.map c.mux).Nodup && decide (gainIndices.map c.pga).Nodup

/-- R80: the calibration constants. `MA_GAIN <= 5` holds by the field's type. -/
def Config.scalerWf (c : Config) : Bool :=
  decide (1 ≤ c.packDen) && decide (1 ≤ c.chgvDen) && decide (1 ≤ c.maDen)
    && decide (c.packNum ≤ 65535) && decide (c.chgvNum ≤ 65535) && decide (c.maNum ≤ 65535)
    && decide (c.packDen ≤ 65535) && decide (c.chgvDen ≤ 65535) && decide (c.maDen ≤ 65535)
    && decide (4095 * c.packNum / c.packDen ≤ 65535)
    && decide (4095 * c.chgvNum / c.chgvDen ≤ 65535)
    && decide (2048 * c.maNum / c.maDen ≤ 32767)
    && decide (c.packCh = 3) && decide (c.packGain = 1)
    && decide (c.chgvCh = 2) && decide (c.chgvGain = 2)

/-- The two fields that the source itself fixes to one value: `OS_START` = 1 (R46) and `BUS_TIMEOUT_MS` = 100 (R34).
DEDUCED, safe: log entry 5. -/
def Config.fixedWf (c : Config) : Bool :=
  decide (c.osStart = 1#1) && decide (c.busTimeoutMs = 100)

/-- R4: "a model refuses a `Config` that fails them". -/
def Config.wf (c : Config) : Bool :=
  c.codesWf && c.scalerWf && c.fixedWf

/-- R4: the record of this hardware. The field codes of R47 to R49 are the spec's, from general knowledge (PRESUMED,
unsafe: log entry 4); the OPEN fields have no known value (log entry 3). -/
def hardwareConfig : Config where
  osStart := 1#1
  muxSe0 := 0b100#3
  muxSe1 := 0b101#3
  muxSe2 := 0b110#3
  muxSe3 := 0b111#3
  muxD01 := 0b000#3
  muxD23 := 0b011#3
  pga0 := 0b000#3
  pga1 := 0b001#3
  pga2 := 0b010#3
  pga3 := 0b011#3
  pga4 := 0b100#3
  pga5 := 0b101#3
  modeSingle := 1#1
  dr1600 := 0b100#3
  compDefault := 0b00011#5
  packCh := 3
  packGain := 1
  chgvCh := 2
  chgvGain := 2
  packNum := 1000
  packDen := 71
  chgvNum := 4
  chgvDen := 1
  maNum := 1
  maDen := 1
  maGain := Config.openMaGain
  maNegate := Config.openMaNegate
  devAddr := Config.openDevAddr
  busTimeoutMs := 100
  convDelay := Config.openConvDelay

/-- R76, R79: the documented setting V16 (gain ×16, value used directly). -/
def Config.v16 (c : Config) : Config := { c with maGain := 5, maNegate := 0#1 }

/-- R76, R79: the documented setting V2N (gain ×2, value negated). -/
def Config.v2n (c : Config) : Config := { c with maGain := 2, maNegate := 1#1 }

/-- R63: `OS_START || m || PGA[g] || MODE_SINGLE || DR_1600 || COMP_DEFAULT`. -/
def cfgword (c : Config) (m : BitVec 3) (g : Fin 6) : Word :=
  c.osStart ++ m ++ c.pga g ++ c.modeSingle ++ c.dr1600 ++ c.compDefault

/-- R45: the field slices of a configuration value. -/
def fOs (v : Word) : BitVec 1 := v.extractLsb' 15 1
def fMux (v : Word) : BitVec 3 := v.extractLsb' 12 3
def fPga (v : Word) : BitVec 3 := v.extractLsb' 9 3
def fMode (v : Word) : BitVec 1 := v.extractLsb' 8 1
def fDr (v : Word) : BitVec 3 := v.extractLsb' 5 3
def fComp (v : Word) : BitVec 5 := v.extractLsb' 0 5

/-- R67: the selection whose `MUX` code is `m`, in the order of the rule. -/
def Config.selectionOf (c : Config) (m : BitVec 3) : Option Selection :=
  Selection.all.find? fun t => c.mux t == m

/-- R67: the gain index whose `PGA` code is `p`. -/
def Config.gainOf (c : Config) (p : BitVec 3) : Option (Fin 6) :=
  gainIndices.find? fun g => c.pga g == p

/-- The conversions whose time and result the spec describes: single-shot (R17), at the data rate `DR_1600` that
`CONV_DELAY` belongs to (R111), of one of the six selections at one of the six gains (R3 (f), R47, R48). Any other word
with `OS` = 1 starts a conversion too (R31), whose result no proof can know. DESIGN CHOICE, safe: log entries 15, 31. -/
def Config.describedConversion (c : Config) (v : Word) : Bool :=
  decide (fMode v = c.modeSingle) && decide (fDr v = c.dr1600) && (c.selectionOf (fMux v)).isSome
    && (c.gainOf (fPga v)).isSome

end Sys2Proof
end

