-- ==== Sys2Proof/Syntax.lean ====
section
/-! DEFINITION. The 15 operations of ADCPIPE command set 1 (spec 30_encoding.md R42, R54), one constructor per row of
spec/opcode_table.json. An operand has the width the row's mask leaves free; must-be-zero fields are no operands. -/

namespace Sys2Proof

/-- One operation of the block with its operands. -/
inductive Instr where
  /-- R60: lay out the 3-byte write frame. -/
  | frameWr (ptr : Byte) (value : Word)
  /-- R61: lay out the 1-byte pointer frame. -/
  | frameRd (ptr : Byte)
  /-- R62: compose two received bytes, the first in bits 15:8. -/
  | compose (byte0 byte1 : Byte)
  /-- R64: configuration value of a single-ended channel. -/
  | encSe (channel : Byte) (gain : BitVec 3)
  /-- R65: configuration value of channel 0 minus channel 1. -/
  | encD01 (gain : BitVec 3)
  /-- R66: configuration value of channel 2 minus channel 3. -/
  | encD23 (gain : BitVec 3)
  /-- R67: selection id and gain index of a configuration value. -/
  | dec (value : Word)
  /-- R69: shift a conversion-register value right 4 bits. -/
  | align12 (value : Word)
  /-- R70: sign-extend a 12-bit code to 16 bits. -/
  | sext12 (code : Word)
  /-- R74: configuration value of the pack-voltage measurement. -/
  | cfgPack
  /-- R75: configuration value of the charger-voltage measurement. -/
  | cfgChgv
  /-- R76: configuration value of the charger-current measurement. -/
  | cfgChgi
  /-- R77: raw code to pack millivolts. -/
  | scalePack (raw : BitVec 12)
  /-- R78: raw code to charger millivolts. -/
  | scaleChgv (raw : BitVec 12)
  /-- R79: raw code to charger milliamps. -/
  | scaleChgi (raw : Word)
  deriving DecidableEq, Repr

end Sys2Proof
end

