-- ==== Sys2Proof/WellFormed.lean ====
section
/-! DEFINITION. The legality conditions on operands that a row's mask cannot express (spec 30_encoding.md R42, the
`constraint` of spec/opcode_table.json). A word whose instruction breaks one is still decoded; its meaning gives the
error result with st = 4 (R56 step 3). -/

namespace Sys2Proof

/-- A 3-bit gain field is legal when it is 0..5 (R43). -/
def gainFieldOk (g : BitVec 3) : Bool := decide (g.toNat ≤ 5)

/-- R79: `s(a)` in -2048..2047. -/
def rawSignedOk (a : Word) : Bool := decide (-2048 ≤ a.toInt) && decide (a.toInt ≤ 2047)

/-- The operands have the legal values of R42. `ENC_SE` with a channel above 3 is a legal encoding of an invalid
request (R55 (c)). -/
def Instr.wf (c : Config) : Instr → Bool
  | .frameWr _ _ => true
  | .frameRd _ => true
  | .compose _ _ => true
  | .encSe _ g => gainFieldOk g
  | .encD01 g => gainFieldOk g
  | .encD23 g => gainFieldOk g
  | .dec v => (c.selectionOf (fMux v)).isSome && (c.gainOf (fPga v)).isSome
  | .align12 _ => true
  | .sext12 _ => true
  | .cfgPack => true
  | .cfgChgv => true
  | .cfgChgi => true
  | .scalePack _ => true
  | .scaleChgv _ => true
  | .scaleChgi r => rawSignedOk r

end Sys2Proof
end

