-- ==== Sys2Proof/Decode.lean ====
section
/-! DEFINITION. The command word (spec 30_encoding.md R41), the operation map (R54), the decoder (R56 steps 1 and 2:
which row of spec/opcode_table.json a word selects) and the encoder. The command word is a number; no rule stores it in
bytes (R28, R41), so the decoder reads a 32-bit value. -/

namespace Sys2Proof

/-- R41: `CW = op || b || a`. -/
def cw (op b : Byte) (a : Word) : BitVec 32 := op ++ b ++ a

/-- R41: the three fields of a command word. -/
def cwOp (w : BitVec 32) : Byte := w.extractLsb' 24 8
def cwB (w : BitVec 32) : Byte := w.extractLsb' 16 8
def cwA (w : BitVec 32) : Word := w.extractLsb' 0 16

/-- R54: the operations by name. -/
inductive Opcode where
  | frameWr | frameRd | compose | encSe | encD01 | encD23 | dec | align12 | sext12
  | cfgPack | cfgChgv | cfgChgi | scalePack | scaleChgv | scaleChgi
  deriving DecidableEq, Repr

/-- R54: the `op` value of an operation. -/
def Opcode.code : Opcode → Byte
  | .frameWr => 0x00#8
  | .frameRd => 0x01#8
  | .compose => 0x02#8
  | .encSe => 0x03#8
  | .encD01 => 0x04#8
  | .encD23 => 0x05#8
  | .dec => 0x06#8
  | .align12 => 0x07#8
  | .sext12 => 0x08#8
  | .cfgPack => 0x09#8
  | .cfgChgv => 0x0A#8
  | .cfgChgi => 0x0B#8
  | .scalePack => 0x0C#8
  | .scaleChgv => 0x0D#8
  | .scaleChgi => 0x0E#8

/-- The operations in the order of R54. -/
def Opcode.all : List Opcode :=
  [.frameWr, .frameRd, .compose, .encSe, .encD01, .encD23, .dec, .align12, .sext12,
    .cfgPack, .cfgChgv, .cfgChgi, .scalePack, .scaleChgv, .scaleChgi]

/-- The operation an `op` value selects; none for the reserved values 0x0F..0xFF (R55 (a)). -/
def opcodeOf (x : Byte) : Option Opcode := Opcode.all.find? fun o => o.code == x

/-- The `mask` column of spec/opcode_table.json. -/
def Opcode.mask : Opcode → BitVec 32
  | .frameWr => 0xFF000000#32
  | .frameRd => 0xFF00FFFF#32
  | .compose => 0xFF00FF00#32
  | .encSe => 0xFF00FFF8#32
  | .encD01 => 0xFFFFFFF8#32
  | .encD23 => 0xFFFFFFF8#32
  | .dec => 0xFFFF0000#32
  | .align12 => 0xFFFF0000#32
  | .sext12 => 0xFFFF0000#32
  | .cfgPack => 0xFFFFFFFF#32
  | .cfgChgv => 0xFFFFFFFF#32
  | .cfgChgi => 0xFFFFFFFF#32
  | .scalePack => 0xFFFFF000#32
  | .scaleChgv => 0xFFFFF000#32
  | .scaleChgi => 0xFFFF0000#32

/-- The `match` column of spec/opcode_table.json: the `op` value in bits 31:24, all else zero. -/
def Opcode.pattern (o : Opcode) : BitVec 32 := cw o.code 0#8 0#16

/-- Why a command word selects no row. Each gives the error result with st = 4 (R55, R56). -/
inductive DecodeError where
  /-- R55 (a): `op` in 0x0F..0xFF. -/
  | reservedOp (op : Byte)
  /-- R55 (b): a field that must be zero for this operation is not. -/
  | mbzNonZero (o : Opcode)
  deriving DecidableEq, Repr

/-- The operation and operands of a command word, or why it has none. Total: every one of the 2^32 words gets an
answer (R55). -/
def decode (w : BitVec 32) : Except DecodeError Instr :=
  match opcodeOf (cwOp w) with
  | none => .error (.reservedOp (cwOp w))
  | some o =>
    match o with
    | .frameWr => .ok (.frameWr (cwB w) (cwA w))
    | .frameRd => if cwA w = 0#16 then .ok (.frameRd (cwB w)) else .error (.mbzNonZero o)
    | .compose =>
      if (cwA w).extractLsb' 8 8 = 0#8 then .ok (.compose (cwB w) ((cwA w).extractLsb' 0 8)) else .error (.mbzNonZero o)
    | .encSe =>
      if (cwA w).extractLsb' 3 13 = 0#13 then .ok (.encSe (cwB w) ((cwA w).extractLsb' 0 3)) else .error (.mbzNonZero o)
    | .encD01 =>
      if cwB w = 0#8 ∧ (cwA w).extractLsb' 3 13 = 0#13 then .ok (.encD01 ((cwA w).extractLsb' 0 3))
      else .error (.mbzNonZero o)
    | .encD23 =>
      if cwB w = 0#8 ∧ (cwA w).extractLsb' 3 13 = 0#13 then .ok (.encD23 ((cwA w).extractLsb' 0 3))
      else .error (.mbzNonZero o)
    | .dec => if cwB w = 0#8 then .ok (.dec (cwA w)) else .error (.mbzNonZero o)
    | .align12 => if cwB w = 0#8 then .ok (.align12 (cwA w)) else .error (.mbzNonZero o)
    | .sext12 => if cwB w = 0#8 then .ok (.sext12 (cwA w)) else .error (.mbzNonZero o)
    | .cfgPack => if cwB w = 0#8 ∧ cwA w = 0#16 then .ok .cfgPack else .error (.mbzNonZero o)
    | .cfgChgv => if cwB w = 0#8 ∧ cwA w = 0#16 then .ok .cfgChgv else .error (.mbzNonZero o)
    | .cfgChgi => if cwB w = 0#8 ∧ cwA w = 0#16 then .ok .cfgChgi else .error (.mbzNonZero o)
    | .scalePack =>
      if cwB w = 0#8 ∧ (cwA w).extractLsb' 12 4 = 0#4 then .ok (.scalePack ((cwA w).extractLsb' 0 12))
      else .error (.mbzNonZero o)
    | .scaleChgv =>
      if cwB w = 0#8 ∧ (cwA w).extractLsb' 12 4 = 0#4 then .ok (.scaleChgv ((cwA w).extractLsb' 0 12))
      else .error (.mbzNonZero o)
    | .scaleChgi => if cwB w = 0#8 then .ok (.scaleChgi (cwA w)) else .error (.mbzNonZero o)

/-- The operation of an instruction. -/
def Instr.opcode : Instr → Opcode
  | .frameWr _ _ => .frameWr
  | .frameRd _ => .frameRd
  | .compose _ _ => .compose
  | .encSe _ _ => .encSe
  | .encD01 _ => .encD01
  | .encD23 _ => .encD23
  | .dec _ => .dec
  | .align12 _ => .align12
  | .sext12 _ => .sext12
  | .cfgPack => .cfgPack
  | .cfgChgv => .cfgChgv
  | .cfgChgi => .cfgChgi
  | .scalePack _ => .scalePack
  | .scaleChgv _ => .scaleChgv
  | .scaleChgi _ => .scaleChgi

/-- What an instruction drives on the `b` port (R42; a must-be-zero field is driven zero). -/
def Instr.portB : Instr → Byte
  | .frameWr p _ => p
  | .frameRd p => p
  | .compose b0 _ => b0
  | .encSe ch _ => ch
  | .encD01 _ => 0#8
  | .encD23 _ => 0#8
  | .dec _ => 0#8
  | .align12 _ => 0#8
  | .sext12 _ => 0#8
  | .cfgPack => 0#8
  | .cfgChgv => 0#8
  | .cfgChgi => 0#8
  | .scalePack _ => 0#8
  | .scaleChgv _ => 0#8
  | .scaleChgi _ => 0#8

/-- What an instruction drives on the `a` port (R42). -/
def Instr.portA : Instr → Word
  | .frameWr _ v => v
  | .frameRd _ => 0#16
  | .compose _ b1 => b1.setWidth 16
  | .encSe _ g => g.setWidth 16
  | .encD01 g => g.setWidth 16
  | .encD23 g => g.setWidth 16
  | .dec v => v
  | .align12 v => v
  | .sext12 v => v
  | .cfgPack => 0#16
  | .cfgChgv => 0#16
  | .cfgChgi => 0#16
  | .scalePack r => r.setWidth 16
  | .scaleChgv r => r.setWidth 16
  | .scaleChgi r => r

/-- R41, R42, R54: the command word of an instruction. -/
def encode (i : Instr) : BitVec 32 := cw i.opcode.code i.portB i.portA

/-- The host's question: the instruction this decoder reads from the word whose bits are `w` in the numbering of
spec/opcode_table.json. A command word is one 32-bit number, so its bits above `nbits` are 0. -/
def decodeTableWord (nbits w : Nat) : Option Instr :=
  match decode (BitVec.ofNat 32 (w % 2 ^ nbits)) with
  | .ok i => some i
  | .error _ => none

end Sys2Proof
end

