-- ==== Sys2Proof/Machine/State.lean ====
section
/-! DEFINITION. What the machine holds, as plain data: the ports of the block (spec 10_state.md R12, R13), the host
sequencer's remaining steps and variables (44_sample_sequences.md), the transport's log and the device's registers
(10_state.md R16, R23), the constant `Config` (R19), and the inputs and the counter of free values that are the model's
own. The block itself holds nothing (R11): the output ports are kept because the host reads them after the operation. -/

namespace Sys2Proof.Machine

/-- R8: the record of the four output ports. -/
structure Result where
  y : Word
  x : Byte
  go : BitVec 1
  st : BitVec 3
  deriving DecidableEq, Repr

/-- R53, R92: the four error kinds. -/
inductive ErrorKind where
  | invalidChannel
  | busError
  | conversionTimeout
  | illegalOperand
  deriving DecidableEq, Repr

/-- What the host drives on `b`: a number it holds, or the first byte received. -/
inductive BSource where
  | lit (v : Byte)
  | rx0
  deriving DecidableEq, Repr

/-- What the host drives on `a`: a number it holds, the `y` of the last operation, the value of the last returned pair,
or the second byte received, zero-extended (R83). -/
inductive ASource where
  | lit (v : Word)
  | outY
  | retValue
  | rx1
  deriving DecidableEq, Repr

/-- A byte of a frame: a number the host holds, or a part of the last operation's outputs (R60, R61). -/
inductive ByteSource where
  | lit (v : Byte)
  | outX
  | outYHi
  | outYLo
  deriving DecidableEq, Repr

/-- R34, R52: the two frames the host transmits; no other number of bytes is ever sent (R29). -/
inductive Frame where
  | write (ptr hi lo : ByteSource)
  | pointer (ptr : ByteSource)
  deriving DecidableEq, Repr

/-- R59: the pseudo-instructions, and the shared `sample(e, signed)` of R84. -/
inductive HostSequence where
  | writeReg (ptr : Byte) (v : ASource)
  | readReg (ptr : Byte)
  | sample (signed : Bool)
  | sampleSe (ch : Byte) (g : Word)
  | sampleD01 (g : Word)
  | sampleD23 (g : Word)
  | packMv
  | chgMv
  | chgMa
  deriving DecidableEq, Repr

/-- One step of the host (R58, R82 to R90). -/
inductive HostStep where
  /-- present `op`, `b`, `a` to the block -/
  | op (o : Byte) (b : BSource) (a : ASource)
  /-- `TX`: one transmit -/
  | tx (f : Frame)
  /-- `RX 2`: one receive of two bytes -/
  | rx
  /-- `WAIT`: at least `t` microseconds -/
  | wait (t : Nat)
  /-- `IF go = 0 THEN RETURN (0, st)` -/
  | ifGoZero
  /-- `IF s = fail THEN RETURN (0, BusError)`, after a transmit -/
  | ifTxFailed
  /-- the same after a receive, where fewer or more than 2 bytes count as a failure (R32, R83) -/
  | ifRxFailed
  /-- `IF st != OK THEN RETURN (0, st)`, on the pair just returned (R84, R87) -/
  | ifNotOk
  /-- `RETURN (y, OK)` -/
  | returnY
  /-- `RETURN s`: what `WRITE_REG` returns (R82) -/
  | returnBusStatus
  /-- start a sequence -/
  | call (q : HostSequence)
  /-- where the steps of a sequence end; a `RETURN` goes on after it -/
  | seqEnd
  deriving DecidableEq, Repr

/-- R9, R34: one call of the transport as the log keeps it. -/
inductive BusCall where
  | transmit (addr : BitVec 7) (bytes : List Byte) (timeoutMs : Nat)
  | receive (addr : BitVec 7) (count : Nat) (timeoutMs : Nat)
  deriving DecidableEq, Repr

/-- The pair a sequence returns (44_sample_sequences.md, opening; R115). -/
structure Returned where
  value : Word
  status : BitVec 3
  deriving DecidableEq, Repr

/-- R16, R23 (a), (b): the external device. -/
structure Device where
  /-- pointer 0x01, the configuration register -/
  conf : Word
  /-- pointer 0x00, the conversion register -/
  conv : Word
  /-- the register pointer the device was last sent (R61) -/
  ptr : Byte
  /-- the conversion in progress: the configuration word that started it, and how long the host has waited since
  (log entry 14) -/
  inFlight : Option (Word × Nat)
  /-- whether the spec defines what the conversion register holds, or will hold when the conversion in progress ends
  (R23, R31, R111; log entries 15, 30, 31) -/
  convDefined : Bool
  /-- R30, R111: the register pointer was sent, so a read was started, while a conversion was in progress
  (log entry 32) -/
  readEarly : Bool
  deriving DecidableEq, Repr

/-- Why the machine stops with a fault. -/
inductive Fault where
  /-- Raised by `step` when no host step is left: "A run of the model ... ends when the last step has returned" (R115).
  Safe: the hardware does nothing more either. Log entry 10. -/
  | runEnded
  deriving DecidableEq, Repr

/-- Why the machine refuses a step. -/
inductive Refusal where
  /-- Raised by an arm of `exec` whose instruction has no meaning yet; no arm of this model does. Safe. -/
  | notModelled (mnemonic : String)
  /-- Raised by `step` when `Config` is not well-formed: "A model refuses any other `Config`" (R4, R80, U18). Safe. -/
  | configNotWellFormed
  /-- Raised by a transport call when the bus handle has not been initialised (R110 (1)). Safe. Log entry 20. -/
  | busHandleNotInitialised
  /-- Raised by a transport call that reaches the device with a pointer the spec gives it no behaviour for: a write to
  0x00, any access to 0x02..0xFF, and a receive that succeeds while the device's pointer is in 0x02..0xFF (R33, U6). Safe.
  Log entry 16. -/
  | deviceAccessUndefined (ptr : Byte)
  deriving DecidableEq, Repr

/-- The machine. -/
structure State where
  /-- R19: the constant `Config`; no step writes it (log entry 2) -/
  cfg : Config
  /-- R12: the input ports, as the host drove them for the last operation -/
  op : Byte
  b : Byte
  a : Word
  /-- R13: the output ports, as the last operation left them -/
  out : Result
  /-- R14, R115: the host steps still to be performed, first to last -/
  todo : List HostStep
  /-- R83: the bytes of the last receive -/
  rxBuf : List Byte
  /-- R9: the status of the last transport call, true for `ok` -/
  busOk : Bool
  /-- the pair the last sequence returned -/
  ret : Returned
  /-- R23 (c): the bus handle is initialised -/
  handle : Bool
  /-- 95_test_vectors.md section 3: the transport calls made, oldest first -/
  log : List BusCall
  dev : Device
  /-- input (the model's own): the transport's answers to the coming calls (log entry 11) -/
  script : List BusReply
  /-- input (the model's own): the results of the coming conversions (log entry 13) -/
  adc : List Word
  /-- the model's own: how many free values have been drawn (log entry 26) -/
  fresh : Nat
  deriving DecidableEq, Repr

/-- R24, R108, R109, R110: the start of a run. Log entries 3, 7, 8, 9, 10, 20 say where the spec gives no value. -/
def State.reset : State where
  cfg := hardwareConfig
  op := 0#8
  b := 0#8
  a := 0#16
  out := { y := 0#16, x := 0#8, go := 0#1, st := 0#3 }
  todo := []
  rxBuf := []
  busOk := true
  ret := { value := 0#16, status := 0#3 }
  handle := true
  log := []
  dev := { conf := Config.powerOnConf, conv := Config.powerOnConv, ptr := Config.powerOnPtr,
           inFlight := Config.powerOnInFlight, convDefined := false, readEarly := false }
  script := []
  adc := []
  fresh := 0

end Sys2Proof.Machine
end

