-- ==== Sys2Proof/Machine/Flags.lean ====
section
/-! DEFINITION. How an operation's outputs `go` and `st` are formed (spec 10_state.md R13, R15; these two are the only
"flags"), and the status codes (30_encoding.md R53). -/

namespace Sys2Proof.Machine

/-- R53: the code of a success. -/
def statusOk : BitVec 3 := 0#3

/-- R53: the code of an error kind. -/
def ErrorKind.code : ErrorKind → BitVec 3
  | .invalidChannel => 1#3
  | .busError => 2#3
  | .conversionTimeout => 3#3
  | .illegalOperand => 4#3

/-- An operation that completes and is no encoding: `go` = 0, `st` = 0 (R13, R15). -/
def Result.done (y : Word) (x : Byte) : Result := { y := y, x := x, go := 0#1, st := statusOk }

/-- An encoding operation that completes: `go` = 1 (R13). -/
def Result.encoded (y : Word) : Result := { y := y, x := 0#8, go := 1#1, st := statusOk }

/-- R8: the error result with the code of `k`. -/
def Result.error (k : ErrorKind) : Result := { y := 0#16, x := 0#8, go := 0#1, st := k.code }

end Sys2Proof.Machine
end

