-- ==== Sys2Proof/Machine/Operands.lean ====
section
/-! DEFINITION. The operand forms of the ports (spec 30_encoding.md R42, R43) and where the host takes its operands from
(44_sample_sequences.md R82 to R89). -/

namespace Sys2Proof.Machine

/-- R43: the gain index on `a`, 0..5. -/
def gainIndex (a : Word) : Option (Fin 6) :=
  if h : a.toNat < 6 then some ⟨a.toNat, h⟩ else none

/-- R64: the channel number on `b`, 0..3. -/
def channelNumber (b : Byte) : Option (Fin 4) :=
  if h : b.toNat < 4 then some ⟨b.toNat, h⟩ else none

/-- R77, R78: the raw unsigned code on `a`, 0..4095. -/
def rawUnsigned (a : Word) : Option Nat :=
  if a.toNat ≤ 4095 then some a.toNat else none

/-- R79: the raw signed code on `a`, -2048..2047. -/
def rawSigned (a : Word) : Option Int :=
  if -2048 ≤ a.toInt ∧ a.toInt ≤ 2047 then some a.toInt else none

/-- The byte `k` of the last receive. A byte that was not delivered is any value (U3); the number of the receive it
belongs to is the counter, which every receive advances (log entry 19). -/
def receivedByte (s : State) (k : Nat) : Byte :=
  match s.rxBuf[k]? with
  | some v => v
  | none => Config.freeByte s.fresh k

/-- The value the host drives on `b`. -/
def BSource.eval (s : State) : BSource → Byte
  | .lit v => v
  | .rx0 => receivedByte s 0

/-- The value the host drives on `a`. -/
def ASource.eval (s : State) : ASource → Word
  | .lit v => v
  | .outY => s.out.y
  | .retValue => s.ret.value
  | .rx1 => (receivedByte s 1).setWidth 16

/-- A byte of a frame; the high byte of `y` is bits 15:8 (R28, R60). -/
def ByteSource.eval (s : State) : ByteSource → Byte
  | .lit v => v
  | .outX => s.out.x
  | .outYHi => s.out.y.extractLsb' 8 8
  | .outYLo => s.out.y.extractLsb' 0 8

/-- R52: the bytes of a frame, byte 0 first on the wire. -/
def Frame.bytes (s : State) : Frame → List Byte
  | .write p h l => [p.eval s, h.eval s, l.eval s]
  | .pointer p => [p.eval s]

end Sys2Proof.Machine
end

