-- ==== Sys2Proof/Machine/Ops.lean ====
section
/-! DEFINITION. The shared operations: how an operation writes the ports, how it reports an error (this hardware's one
"exception", spec 60_exceptions.md R99), and how the host's program is advanced and a sequence left
(44_sample_sequences.md R90). There is no return from an exception, since nothing is entered (R100), and no byte memory
(20_memory.md R25; log entry 24): the registers of the device are read and written in Machine/Bus.lean. -/

namespace Sys2Proof.Machine

/-- The outcome of a step. -/
abbrev Out := Host.Outcome State Fault Refusal

/-- Drive the output ports. -/
def State.setOut (s : State) (r : Result) : State := { s with out := r }

/-- Drive the input ports (R12). -/
def State.setIn (s : State) (op b : Byte) (a : Word) : State := { s with op := op, b := b, a := a }

/-- An operation ends with the record `r` on the output ports and changes nothing else (R8, R11). -/
def complete (r : Result) (s : State) : Out := .next (s.setOut r)

/-- R7, R8, R99: `raise <Kind>`. The outputs take the error result; no control is transferred, nothing is saved and
nothing else changes. -/
def raiseError (k : ErrorKind) (s : State) : Out := complete (Result.error k) s

/-- R90: leave the running sequence; the host goes on after its end. A `RETURN` outside every sequence ends the program
(95_test_vectors.md P1). -/
def afterReturn : List HostStep → List HostStep
  | [] => []
  | .seqEnd :: rest => rest
  | _ :: rest => afterReturn rest

/-- `RETURN (v, st)`. -/
def State.returns (s : State) (v : Word) (st : BitVec 3) : State :=
  { s with ret := { value := v, status := st }, todo := afterReturn s.todo }

/-- R7, R8: an error of the host ends the sequence with value 0 and the code. -/
def State.returnsError (s : State) (st : BitVec 3) : State := s.returns 0#16 st

end Sys2Proof.Machine
end

