-- ==== Sys2Proof/Machine/Bus.lean ====
section
/-! DEFINITION. The device (spec 10_state.md R16 to R18, R23) and the transport's two calls (20_memory.md R26, R27, R30 to
R34), as far as the host's caller sees them. -/

namespace Sys2Proof.Machine

/-- R16: the pointer of the conversion register. -/
def convPtr : Byte := 0x00#8

/-- R16: the pointer of the configuration register. -/
def confPtr : Byte := 0x01#8

/-- What a configuration write leaves of the conversion register. With `OS` = 1: whether the conversion it starts is one
that the spec describes. With `OS` = 0: the old contents (R23 (b)), but not while a conversion is in progress (R112; log
entry 30), nor after a spell in continuous mode, of which R17 says nothing (log entry 15). -/
def Device.definedAfterWrite (c : Config) (d : Device) (v : Word) : Bool :=
  if fOs v = 1#1 then c.describedConversion v
  else d.convDefined && d.inFlight.isNone && decide (fMode v = c.modeSingle)

/-- R31: a configuration write with `OS` = 1 starts one conversion, which takes the place of one in progress (R112; log
entry 30); with `OS` = 0 it starts none. The two data bytes take effect together (R30; log entry 27). -/
def Device.writeConf (c : Config) (d : Device) (v : Word) : Device :=
  { conf := v
    conv := d.conv
    ptr := confPtr
    inFlight := if fOs v = 1#1 then some (v, 0) else d.inFlight
    convDefined := d.definedAfterWrite c v
    readEarly := false }

/-- R61: a pointer frame sets the register pointer. It is the start of a read (R30), which comes too early while a
conversion is in progress (R111; log entry 32). -/
def Device.point (d : Device) (p : Byte) : Device :=
  { d with ptr := p, readEarly := d.inFlight.isSome }

/-- The value of the conversion register is defined only when no conversion is in progress and none was when the read
was started (R23 (a), R111), and the last conversion is one that the spec describes. -/
def Device.settled (d : Device) : Bool :=
  d.inFlight.isNone && !d.readEarly && d.convDefined

/-- R27: the value a read of the pointed register delivers. Reading changes nothing in the device (R31; log entry 22).
A read of the conversion register that is not settled is any value (R111, U4); so is bit 15 of the configuration register (U14). No
value for a pointer outside the map (R33, U6). -/
def Device.read (d : Device) (fresh : Nat) : Option Word :=
  if d.ptr = convPtr then
    some (if d.settled then d.conv else Config.freeRead fresh)
  else if d.ptr = confPtr then
    some (Config.freeStatusBit fresh ++ d.conf.extractLsb' 0 15)
  else none

/-- The transport's answer to the next call, and the rest of the script; a call beyond the script has a free answer
(R34; log entry 11). -/
def nextReply (s : State) : BusReply :=
  match s.script with
  | r :: _ => r
  | [] => Config.freeReply s.fresh

/-- Whether a call with this answer returns `ok` (R34). -/
def replyOk : BusReply → Bool
  | .ok => true
  | .deliver _ => true
  | .fail _ => false

/-- Whether the bytes of a transmit with this answer reach the device (R95, U13). -/
def replyReaches : BusReply → Bool
  | .ok => true
  | .deliver _ => true
  | .fail reached => reached

/-- What a frame that reaches the device does there: a pointer frame sets the register pointer, a write frame to the
configuration register writes it (R52). None where the spec gives the device no behaviour (R33, U6). -/
def Device.takeFrame (c : Config) (d : Device) : List Byte → Option Device
  | [p] => if p = convPtr ∨ p = confPtr then some (d.point p) else none
  | [p, hi, lo] => if p = confPtr then some (d.writeConf c (hi ++ lo)) else none
  | _ => none

/-- R26, R34: `transmit(DEV_ADDR, bytes, BUS_TIMEOUT_MS)`. The call is logged, the status is what the transport
answers, and the device takes the frame when it arrives. -/
def transmit (f : Frame) (s : State) : Out :=
  if s.handle then
    let reply := nextReply s
    let bytes := f.bytes s
    let s1 : State :=
      { s with
        log := s.log ++ [.transmit s.cfg.devAddr bytes s.cfg.busTimeoutMs]
        busOk := replyOk reply
        script := s.script.tail
        fresh := s.fresh + 1 }
    if replyReaches reply then
      match s.dev.takeFrame s.cfg bytes with
      | some d => .next { s1 with dev := d }
      | none => .refused (.deviceAccessUndefined (bytes.headD 0#8))
    else .next s1
  else .refused .busHandleNotInitialised

/-- The bytes a receive delivers when the pointed register reads as `v`: with `ok` the device's two, the high byte first
(R28), with `deliver` those of the transport (R32, R34), with `fail` none. -/
def receivedBytes (v : Word) : BusReply → List Byte
  | .ok => [v.extractLsb' 8 8, v.extractLsb' 0 8]
  | .deliver bs => bs
  | .fail _ => []

/-- R27, R34: `receive(DEV_ADDR, 2, BUS_TIMEOUT_MS)`. A call that succeeds accesses the pointed register, so it is refused
when the spec gives the device none there (R33, U6; log entry 16), whatever bytes the transport delivers; a call that
fails leaves the host no bytes. -/
def receive (s : State) : Out :=
  if s.handle then
    let reply := nextReply s
    let s1 : State :=
      { s with
        log := s.log ++ [.receive s.cfg.devAddr 2 s.cfg.busTimeoutMs]
        busOk := replyOk reply
        script := s.script.tail
        fresh := s.fresh + 1 }
    if replyOk reply then
      match s.dev.read s.fresh with
      | some v => .next { s1 with rxBuf := receivedBytes v reply }
      | none => .refused (.deviceAccessUndefined s.dev.ptr)
    else .next { s1 with rxBuf := [] }
  else .refused .busHandleNotInitialised

/-- R36, R111: the host waits `t`. When the time waited since the configuration write reaches `CONV_DELAY` the
conversion has finished and its result, any value (R3 (e), R27), is in the conversion register. That it has not finished
before is the model's reckoning (log entry 14). R111 ties `CONV_DELAY` to
conversions at `DR_1600` only; one at another rate, of another input or gain code, or in continuous mode ends here as
well, but its result is never read as defined (`Config.describedConversion`, log entries 15, 31). -/
def waitFor (t : Nat) (s : State) : State :=
  match s.dev.inFlight with
  | none => s
  | some (v, waited) =>
    if s.cfg.convDelay ≤ waited + t then
      let result := match s.adc with
        | r :: _ => r
        | [] => Config.freeConversion s.fresh v
      { s with
        dev := { s.dev with conv := result, inFlight := none }
        adc := s.adc.tail
        fresh := s.fresh + 1 }
    else { s with dev := { s.dev with inFlight := some (v, waited + t) } }

end Sys2Proof.Machine
end

