-- ==== Sys2Proof/Machine/Align.lean ====
section
/-! DEFINITION. Result alignment and 12-bit sign-extension (spec 42_result_align_sext.md R69, R70). -/

namespace Sys2Proof.Machine

/-- R69: a logical shift; zeros enter at the top. -/
def align12 (a : Word) : Result := .done (a >>> 4) 0#8

/-- R70: the comparison is on all 16 bits (90_conflicts.md C2). -/
def sext12 (a : Word) : Result :=
  .done (if 0x07FF < a.toNat then a ||| 0xF000#16 else a) 0#8

/-- ALIGN12, R69. -/
def execAlign12 (value : Word) (s : State) : Out := complete (align12 value) s

/-- SEXT12, R70. -/
def execSext12 (code : Word) (s : State) : Out := complete (sext12 code) s

end Sys2Proof.Machine
end

