-- ==== Sys2Proof/Machine/Calibration.lean ====
section
/-! DEFINITION. The measurement configurations and the fixed-point calibration scaler (spec 43_calibration.md R72 to
R79). -/

namespace Sys2Proof.Machine

/-- R72: the exact product divided and rounded down. -/
def scaleU (r num den : Nat) : Nat := r * num / den

/-- R72: the exact product divided and rounded toward zero. -/
def scaleS (r : Int) (num den : Nat) : Int := (r * num).tdiv den

/-- R74. -/
def cfgPack (c : Config) : Result := .encoded (cfgword c (c.muxSe c.packCh) c.packGain)

/-- R75. -/
def cfgChgv (c : Config) : Result := .encoded (cfgword c (c.muxSe c.chgvCh) c.chgvGain)

/-- R76. -/
def cfgChgi (c : Config) : Result := .encoded (cfgword c c.muxD01 c.maGain)

/-- R77, R78: the unsigned scalers; the result is reduced to 16 bits only at the output. -/
def scaleUnsigned (num den : Nat) (a : Word) : Result :=
  match rawUnsigned a with
  | none => .error .illegalOperand
  | some r => .done (BitVec.ofNat 16 (scaleU r num den)) 0#8

/-- R77. -/
def scalePack (c : Config) (a : Word) : Result := scaleUnsigned c.packNum c.packDen a

/-- R78. -/
def scaleChgv (c : Config) (a : Word) : Result := scaleUnsigned c.chgvNum c.chgvDen a

/-- R79: the negation comes after the scaling. -/
def scaleChgi (c : Config) (a : Word) : Result :=
  match rawSigned a with
  | none => .error .illegalOperand
  | some r =>
    let v := scaleS r c.maNum c.maDen
    .done (BitVec.ofInt 16 (if c.maNegate = 1#1 then -v else v)) 0#8

/-- CFG_PACK, R74. -/
def execCfgPack (s : State) : Out := complete (cfgPack s.cfg) s

/-- CFG_CHGV, R75. -/
def execCfgChgv (s : State) : Out := complete (cfgChgv s.cfg) s

/-- CFG_CHGI, R76. -/
def execCfgChgi (s : State) : Out := complete (cfgChgi s.cfg) s

/-- SCALE_PACK, R77. -/
def execScalePack (raw : BitVec 12) (s : State) : Out := complete (scalePack s.cfg (raw.setWidth 16)) s

/-- SCALE_CHGV, R78. -/
def execScaleChgv (raw : BitVec 12) (s : State) : Out := complete (scaleChgv s.cfg (raw.setWidth 16)) s

/-- SCALE_CHGI, R79. -/
def execScaleChgi (raw : Word) (s : State) : Out := complete (scaleChgi s.cfg raw) s

end Sys2Proof.Machine
end

