-- ==== Sys2Proof/Machine/Codec.lean ====
section
/-! DEFINITION. The configuration-register encoder and decoder (spec 41_config_codec.md R63 to R67). -/

namespace Sys2Proof.Machine

/-- R64: the gain is checked before the channel (R56, R98). -/
def encSe (c : Config) (b : Byte) (a : Word) : Result :=
  match gainIndex a with
  | none => .error .illegalOperand
  | some g =>
    match channelNumber b with
    | none => .error .invalidChannel
    | some ch => .encoded (cfgword c (c.muxSe ch) g)

/-- R65, R66: the encoders of a fixed pairing with multiplexer code `m`. -/
def encPairing (c : Config) (m : BitVec 3) (a : Word) : Result :=
  match gainIndex a with
  | none => .error .illegalOperand
  | some g => .encoded (cfgword c m g)

/-- R67: only bits 14:9 are read. -/
def dec (c : Config) (a : Word) : Result :=
  match c.selectionOf (fMux a), c.gainOf (fPga a) with
  | some sel, some g => .done (BitVec.ofNat 16 g.val) sel.id
  | _, _ => .error .illegalOperand

/-- ENC_SE, R64. -/
def execEncSe (channel : Byte) (gain : BitVec 3) (s : State) : Out :=
  complete (encSe s.cfg channel (gain.setWidth 16)) s

/-- ENC_D01, R65. -/
def execEncD01 (gain : BitVec 3) (s : State) : Out :=
  complete (encPairing s.cfg s.cfg.muxD01 (gain.setWidth 16)) s

/-- ENC_D23, R66. -/
def execEncD23 (gain : BitVec 3) (s : State) : Out :=
  complete (encPairing s.cfg s.cfg.muxD23 (gain.setWidth 16)) s

/-- DEC, R67. -/
def execDec (value : Word) (s : State) : Out := complete (dec s.cfg value) s

end Sys2Proof.Machine
end

