-- ==== Sys2Proof/Machine/Frames.lean ====
section
/-! DEFINITION. The wire-frame operations (spec 40_wire_frames.md R60 to R62): first what an operation computes from
its ports, then its meaning as an instruction. -/

namespace Sys2Proof.Machine

/-- R60. -/
def frameWr (b : Byte) (a : Word) : Result := .done a b

/-- R61. -/
def frameRd (b : Byte) : Result := .done 0#16 b

/-- R62: the first byte received lands in bits 15:8. -/
def compose (b : Byte) (a : Word) : Result := .done (b ++ a.extractLsb' 0 8) 0#8

/-- FRAME_WR, R60. -/
def execFrameWr (ptr : Byte) (value : Word) (s : State) : Out := complete (frameWr ptr value) s

/-- FRAME_RD, R61. -/
def execFrameRd (ptr : Byte) (s : State) : Out := complete (frameRd ptr) s

/-- COMPOSE, R62. -/
def execCompose (byte0 byte1 : Byte) (s : State) : Out := complete (compose byte0 (byte1.setWidth 16)) s

end Sys2Proof.Machine
end

