-- ==== Sys2Proof/Machine/Dispatch.lean ====
section
/-! DEFINITION. One arm per operation of spec/opcode_table.json. -/

namespace Sys2Proof.Machine

def exec (i : Instr) (s : State) : Host.Outcome State Fault Refusal :=
  match i with
  | .frameWr ptr value => Sys2Proof.Machine.execFrameWr ptr value s
  | .frameRd ptr => Sys2Proof.Machine.execFrameRd ptr s
  | .compose byte0 byte1 => Sys2Proof.Machine.execCompose byte0 byte1 s
  | .encSe channel gain => Sys2Proof.Machine.execEncSe channel gain s
  | .encD01 gain => Sys2Proof.Machine.execEncD01 gain s
  | .encD23 gain => Sys2Proof.Machine.execEncD23 gain s
  | .dec value => Sys2Proof.Machine.execDec value s
  | .align12 value => Sys2Proof.Machine.execAlign12 value s
  | .sext12 code => Sys2Proof.Machine.execSext12 code s
  | .cfgPack => Sys2Proof.Machine.execCfgPack s
  | .cfgChgv => Sys2Proof.Machine.execCfgChgv s
  | .cfgChgi => Sys2Proof.Machine.execCfgChgi s
  | .scalePack raw => Sys2Proof.Machine.execScalePack raw s
  | .scaleChgv raw => Sys2Proof.Machine.execScaleChgv raw s
  | .scaleChgi raw => Sys2Proof.Machine.execScaleChgi raw s

end Sys2Proof.Machine
end

