-- ==== Sys2Proof/Machine/Sequencer.lean ====
section
/-! DEFINITION. The host sequencer (spec 44_sample_sequences.md R82 to R91): what each pseudo-instruction expands to and
what each host step does. -/

namespace Sys2Proof.Machine

/-- Present `op`, `b`, `a` to the block (R41, R56): the operation a legal command word names is performed, any other
command word gives the error result with `IllegalOperand` (R55). -/
def present (op b : Byte) (a : Word) (s : State) : Out :=
  match decode (cw op b a) with
  | .ok i => exec i (s.setIn op b a)
  | .error _ => raiseError .illegalOperand (s.setIn op b a)

/-- A block operation of a sequence by name; an MBZ operand is presented as zero. -/
def stepOf (o : Opcode) (b : BSource) (a : ASource) : HostStep := .op o.code b a

/-- R82: the body of `WRITE_REG ptr, v`. -/
def writeRegSteps (ptr : Byte) (v : ASource) : List HostStep :=
  [stepOf .frameWr (.lit ptr) v, .tx (.write .outX .outYHi .outYLo), .returnBusStatus]

/-- R83: the body of `READ_REG ptr`. -/
def readRegSteps (ptr : Byte) : List HostStep :=
  [stepOf .frameRd (.lit ptr) (.lit 0#16), .tx (.pointer .outX), .ifTxFailed, .rx, .ifRxFailed,
    stepOf .compose .rx0 .rx1, .returnY]

/-- R84: the body of `sample(e, signed)`; `e` is the record on the output ports. -/
def sampleSteps (c : Config) (signed : Bool) : List HostStep :=
  [.ifGoZero, .call (.writeReg confPtr .outY), .ifNotOk, .wait c.convDelay, .call (.readReg convPtr), .ifNotOk,
    stepOf .align12 (.lit 0#8) .retValue]
  ++ (if signed then [stepOf .sext12 (.lit 0#8) .outY] else [])
  ++ [.returnY]

/-- R84 to R86: an encoding operation and the common core; the pair that `sample` returned is returned as it is. -/
def encodedSampleSteps (enc : HostStep) (signed : Bool) : List HostStep :=
  [enc, .call (.sample signed)]

/-- R87 to R89: a measurement: its configuration operation, `sample`, the propagation of an error (R101), its scaler. -/
def measureSteps (cfgOp : Opcode) (signed : Bool) (scaleOp : Opcode) : List HostStep :=
  [stepOf cfgOp (.lit 0#8) (.lit 0#16), .call (.sample signed), .ifNotOk,
    stepOf scaleOp (.lit 0#8) .retValue, .returnY]

/-- R59: the expansion of a pseudo-instruction. -/
def expand (c : Config) : HostSequence → List HostStep
  | .writeReg ptr v => writeRegSteps ptr v
  | .readReg ptr => readRegSteps ptr
  | .sample signed => sampleSteps c signed
  | .sampleSe ch g => encodedSampleSteps (stepOf .encSe (.lit ch) (.lit g)) false
  | .sampleD01 g => encodedSampleSteps (stepOf .encD01 (.lit 0#8) (.lit g)) true
  | .sampleD23 g => encodedSampleSteps (stepOf .encD23 (.lit 0#8) (.lit g)) true
  | .packMv => measureSteps .cfgPack false .scalePack
  | .chgMv => measureSteps .cfgChgv false .scaleChgv
  | .chgMa => measureSteps .cfgChgi true .scaleChgi

/-- R83: `s2 = fail or bytes does not hold exactly 2 bytes`. -/
def rxFailed (s : State) : Bool := !s.busOk || decide (s.rxBuf.length ≠ 2)

/-- R82: the status of a transport call as the status of a sequence. Log entry 18. -/
def busStatus (ok : Bool) : BitVec 3 := if ok then statusOk else ErrorKind.busError.code

/-- One host step, in a state whose `todo` no longer holds it. -/
def hostStep (h : HostStep) (s : State) : Out :=
  match h with
  | .op o b a => present o (b.eval s) (a.eval s) s
  | .tx f => transmit f s
  | .rx => receive s
  | .wait t => .next (waitFor t s)
  | .ifGoZero => .next (if s.out.go = 0#1 then s.returnsError s.out.st else s)
  | .ifTxFailed => .next (if s.busOk then s else s.returnsError ErrorKind.busError.code)
  | .ifRxFailed => .next (if rxFailed s then s.returnsError ErrorKind.busError.code else s)
  | .ifNotOk => .next (if s.ret.status = statusOk then s else s.returnsError s.ret.status)
  | .returnY => .next (s.returns s.out.y statusOk)
  | .returnBusStatus => .next (s.returns 0#16 (busStatus s.busOk))
  | .call q => .next { s with todo := expand s.cfg q ++ .seqEnd :: s.todo }
  | .seqEnd => .next s

/-- The host step that presents one command word, every operand a number. -/
def wordStep (w : BitVec 32) : HostStep := .op (cwOp w) (.lit (cwB w)) (.lit (cwA w))

/-- The next host step is performed; the run has ended when none is left (R115). -/
def hostNext (s : State) : Out :=
  match s.todo with
  | [] => .fault .runEnded
  | h :: rest => hostStep h { s with todo := rest }

end Sys2Proof.Machine
end

