-- ==== Sys2Proof/Machine/Step.lean ====
section
/-! DEFINITION. One step of the machine: one host step, under a well-formed `Config` (spec 00_scope.md R4, 10_state.md
R14). -/

namespace Sys2Proof.Machine

/-- R4, R80, U18: a `Config` that is not well-formed is refused. -/
def step (s : State) : Host.Outcome State Fault Refusal :=
  if s.cfg.wf then hostNext s else .refused .configNotWellFormed

/-- The state whose next host step presents the command word `w` (log entry 10). -/
def State.withFetchWord (s : State) (nbits w : Nat) : State :=
  { s with todo := wordStep (BitVec.ofNat 32 (w % 2 ^ nbits)) :: s.todo }

end Sys2Proof.Machine
end

