-- ==== Sys2Proof/Machine/Block.lean ====
section
/-! DEFINITION. The block as the pure function `(Config, op, b, a) → (y, x, go, st)` of spec 00_scope.md R8, written
from the decoding procedure of 30_encoding.md R56 and the operand table of R42 on the ports themselves. The machine does
not run it (it runs `decode` and `exec`); that the two agree is an obligation. -/

namespace Sys2Proof.Machine

/-- R42: the bits of `b` that must be zero for an `op`. -/
def mbzB (op : Byte) : Byte :=
  if op = 0x00#8 ∨ op = 0x01#8 ∨ op = 0x02#8 ∨ op = 0x03#8 then 0x00#8 else 0xFF#8

/-- R42: the bits of `a` that must be zero for an `op`. -/
def mbzA (op : Byte) : Word :=
  if op = 0x01#8 ∨ op = 0x09#8 ∨ op = 0x0A#8 ∨ op = 0x0B#8 then 0xFFFF#16
  else if op = 0x02#8 then 0xFF00#16
  else 0x0000#16

/-- R56 step 3: an operand outside the legal values of R42. -/
abbrev operandIllegal (c : Config) (op : Byte) (a : Word) : Prop :=
  ((op = 0x03#8 ∨ op = 0x04#8 ∨ op = 0x05#8) ∧ 5 < a.toNat)
    ∨ ((op = 0x0C#8 ∨ op = 0x0D#8) ∧ 4095 < a.toNat)
    ∨ (op = 0x0E#8 ∧ (a.toInt < -2048 ∨ 2047 < a.toInt))
    ∨ (op = 0x06#8 ∧ (c.selectionOf (fMux a) = none ∨ c.gainOf (fPga a) = none))

/-- R56 step 5: "otherwise perform the operation's rule". -/
def performRule (c : Config) (op b : Byte) (a : Word) : Result :=
  match op.toNat with
  | 0x00 => frameWr b a
  | 0x01 => frameRd b
  | 0x02 => compose b a
  | 0x03 => encSe c b a
  | 0x04 => encPairing c c.muxD01 a
  | 0x05 => encPairing c c.muxD23 a
  | 0x06 => dec c a
  | 0x07 => align12 a
  | 0x08 => sext12 a
  | 0x09 => cfgPack c
  | 0x0A => cfgChgv c
  | 0x0B => cfgChgi c
  | 0x0C => scalePack c a
  | 0x0D => scaleChgv c a
  | 0x0E => scaleChgi c a
  | _ => .error .illegalOperand

/-- R56: the decoding procedure, step by step. -/
def perform (c : Config) (op b : Byte) (a : Word) : Result :=
  if 0x0E < op.toNat then .error .illegalOperand
  else if b &&& mbzB op ≠ 0#8 ∨ a &&& mbzA op ≠ 0#16 then .error .illegalOperand
  else if operandIllegal c op a then .error .illegalOperand
  else if op = 0x03#8 ∧ 3 < b.toNat then .error .invalidChannel
  else performRule c op b a

end Sys2Proof.Machine
end

