-- ==== Sys2Proof/Safety.lean ====
section
/-! DEFINITION. The terms in which statements about the machine are made: what it means that a command word is answered
with a record, a run of several steps, and the invariants (spec 10_state.md R11, R13, R19; 30_encoding.md R53). -/

namespace Sys2Proof.Machine

/-- The step that presents the command word `op || b || a` answers the record `r`, and changes nothing but the ports. -/
def Answers (s : State) (op b : Byte) (a : Word) (r : Result) : Prop :=
  step (s.withFetchWord 32 (cw op b a).toNat) = .next ((s.setIn op b a).setOut r)

/-- Exactly the words with `w & mask = pattern` are decoded to the operation `o` (spec INDEX.md, "A command word `w`
selects the row when `w & mask = match`"). -/
def SelectsRow (o : Opcode) (mask pattern : BitVec 32) : Prop :=
  ∀ w : BitVec 32, (∃ i, decode w = .ok i ∧ i.opcode = o) ↔ w &&& mask = pattern

/-- `k` steps, stopping at the first fault or refusal. -/
def run : Nat → State → Out
  | 0, s => .next s
  | k + 1, s =>
    match step s with
    | .next t => run k t
    | .fault r => .fault r
    | .refused r => .refused r

/-- R11, R13: the output ports are the function of R56 of the input ports and `Config`. -/
def PortsCombinational (s : State) : Prop := s.out = perform s.cfg s.op s.b s.a

/-- R53: the codes the outputs and the returned pair may show; 3 (R96) and 5, 6, 7 never, 2 never on the outputs (R95). -/
def StatusesLegal (s : State) : Prop :=
  (s.out.st = 0#3 ∨ s.out.st = 1#3 ∨ s.out.st = 4#3)
    ∧ (s.ret.status = 0#3 ∨ s.ret.status = 1#3 ∨ s.ret.status = 2#3 ∨ s.ret.status = 4#3)

/-- The state in which the host starts the sequence `q` before anything else it still has to do. -/
def State.starting (s : State) (q : HostSequence) : State := { s with todo := .call q :: s.todo }

/-- The calls of one sample whose configuration word is `v` (R84): the write frame, the pointer frame, the receive. -/
def sampleCalls (c : Config) (v : Word) : List BusCall :=
  [.transmit c.devAddr [0x01#8, v.extractLsb' 8 8, v.extractLsb' 0 8] 100,
    .transmit c.devAddr [0x00#8] 100,
    .receive c.devAddr 2 100]

/-- The receive with answer `r` gives the host the word `w` when the conversion register holds `conv`: the device's
bytes, or the bytes the transport delivers (R27, R34). -/
def Delivers (r : BusReply) (conv w : Word) : Prop :=
  (r = .ok ∧ w = conv) ∨ r = .deliver [w.extractLsb' 8 8, w.extractLsb' 0 8]

/-- What one undisturbed sample with configuration word `conf` leaves around the block: the device has `conf` and the
result `conv`, the host has received `w`, the transport has made three calls and used up three answers. -/
def State.sampled (s : State) (conf conv w : Word) (sc : List BusReply) (ad : List Word) : State :=
  { s with
    dev := { conf := conf, conv := conv, ptr := 0x00#8, inFlight := none, convDefined := true, readEarly := false }
    rxBuf := [w.extractLsb' 8 8, w.extractLsb' 0 8]
    busOk := true
    log := s.log ++ sampleCalls s.cfg conf
    script := sc
    adc := ad
    fresh := s.fresh + 4 }

end Sys2Proof.Machine
end

