-- ==== Sys2Proof/Certificates/Slice0/Obligations.lean ====
section
/-! DEFINITION. The statements about the model, from the numbered rules of spec/. -/

open Sys2Proof Sys2Proof.Machine

/-! ### Encoding -/

/-- 30_encoding.md R41, R42, R54: decoding the encoding of an instruction gives it back, for every instruction and every
value of its operands (not only the well-formed ones). -/
def Obligations.DecodeOfEncodeIsTheInstruction : Prop := ∀ i : Instr, decode (encode i) = .ok i

/-- 30_encoding.md R41, R42: a word that decodes to an instruction is that instruction's encoding, so that no bit of a
decoded word is ignored. -/
def Obligations.DecodedWordIsTheEncoding : Prop := ∀ (w : BitVec 32) (i : Instr), decode w = .ok i → encode i = w

/-- 30_encoding.md R58: the words the rule writes out decode to the operations it names. -/
def Obligations.WordsOfTheSyntaxRuleDecode : Prop :=
  decode 0x0001F383#32 = .ok (.frameWr 0x01#8 0xF383#16) ∧ decode 0x01000000#32 = .ok (.frameRd 0x00#8)
    ∧ decode 0x02040070#32 = .ok (.compose 0x04#8 0x70#8) ∧ decode 0x03030001#32 = .ok (.encSe 3#8 1#3)
    ∧ decode 0x04000005#32 = .ok (.encD01 5#3) ∧ decode 0x0600F383#32 = .ok (.dec 0xF383#16)
    ∧ decode 0x07000470#32 = .ok (.align12 0x0470#16) ∧ decode 0x08000FDA#32 = .ok (.sext12 0x0FDA#16)
    ∧ decode 0x09000000#32 = .ok .cfgPack ∧ decode 0x0C000047#32 = .ok (.scalePack 71#12)
    ∧ decode 0x0E00FFDA#32 = .ok (.scaleChgi (BitVec.ofInt 16 (-38)))

/-! ### The step -/

/-- A step whose next host step presents a command word that decodes to `i` is `exec i`, after the host step is taken
off its list and the input ports are driven (30_encoding.md R41, R56; 10_state.md R12, R14). -/
def Obligations.StepRunsTheDecodedInstruction : Prop :=
  (∀ (s : State) (o : Byte) (bs : BSource) (as : ASource) (rest : List HostStep) (i : Instr),
    s.cfg.wf = true → s.todo = .op o bs as :: rest → decode (cw o (bs.eval s) (as.eval s)) = .ok i →
    step s = exec i (({ s with todo := rest } : State).setIn o (bs.eval s) (as.eval s)))
  ∧ ∀ (s : State) (w : BitVec 32) (i : Instr), s.cfg.wf = true → decode w = .ok i →
    step (s.withFetchWord 32 w.toNat) = exec i (s.setIn (cwOp w) (cwB w) (cwA w))

/-- 30_encoding.md R55: every reserved `op` value, and every word of a defined `op` that its must-be-zero fields rule
out, gives the error result with `st` = 4; every one of the 2^32 words has a result; and an instruction never stops. -/
def Obligations.EveryWordHasAResultIllegalOnesStatusFour : Prop :=
  (∀ (s : State) (op b : Byte) (a : Word), s.cfg.wf = true → 0x0E < op.toNat →
    Answers s op b a ⟨0#16, 0#8, 0#1, 4#3⟩)
  ∧ (∀ (s : State) (op b : Byte) (a : Word), s.cfg.wf = true → (∀ i, decode (cw op b a) ≠ .ok i) →
    Answers s op b a ⟨0#16, 0#8, 0#1, 4#3⟩)
  ∧ (∀ (s : State) (i : Instr), s.cfg.wf = true → i.wf s.cfg = false →
    Answers s i.opcode.code i.portB i.portA ⟨0#16, 0#8, 0#1, 4#3⟩)
  ∧ (∀ (s : State) (b : Byte) (a : Word), s.cfg.wf = true → a.toNat ≤ 5 → 3 < b.toNat →
    Answers s 0x03#8 b a ⟨0#16, 0#8, 0#1, 1#3⟩)
  ∧ ∀ (s : State) (op b : Byte) (a : Word), s.cfg.wf = true → ∃ r, Answers s op b a r

/-- 30_encoding.md R56: the decoder and the meanings together are the decoding procedure, for all 2^32 words. -/
def Obligations.StepIsTheDecodingProcedure : Prop :=
  ∀ (s : State) (op b : Byte) (a : Word), s.cfg.wf = true → Answers s op b a (perform s.cfg op b a)

/-- 60_exceptions.md R98: with a reserved gain index and an invalid channel together the operation reports 4, for every
form of the two mistakes. -/
def Obligations.IllegalOperandComesBeforeInvalidChannel : Prop :=
  ∀ (s : State) (b : Byte) (a : Word), s.cfg.wf = true → 5 < a.toNat → 3 < b.toNat →
    Answers s 0x03#8 b a ⟨0#16, 0#8, 0#1, 4#3⟩

/-- 10_state.md R11: the outputs of an operation depend on `Config`, `op`, `b`, `a` alone, whatever the two machines did
before, and the operation leaves nothing but the ports behind. -/
def Obligations.OutputsDependOnInputsAlone : Prop :=
  ∀ (s t : State) (op b : Byte) (a : Word), s.cfg.wf = true → t.cfg = s.cfg →
    ∃ r, Answers s op b a r ∧ Answers t op b a r

/-- 10_state.md R13, 00_scope.md R8: every instruction completes and writes the output ports only; when `st` is not 0
the other outputs are 0; and `go` is 1 exactly for an encoding operation that succeeded. -/
def Obligations.ErrorsCarryZerosAndOnlyEncodersSetGo : Prop :=
  ∀ (i : Instr) (s : State), ∃ r : Result, exec i s = .next (s.setOut r)
    ∧ (r.st ≠ 0#3 → r.y = 0#16 ∧ r.x = 0#8 ∧ r.go = 0#1)
    ∧ (r.go = 1#1 ↔ r.st = 0#3 ∧ (i.opcode = .encSe ∨ i.opcode = .encD01 ∨ i.opcode = .encD23
        ∨ i.opcode = .cfgPack ∨ i.opcode = .cfgChgv ∨ i.opcode = .cfgChgi))

/-- 60_exceptions.md R99, R100: an operation that reports an error changes nothing but the ports, and the operation
after it gives what it would have given without the error. -/
def Obligations.ErrorLeavesTheNextOperationAlone : Prop :=
  ∀ (s : State) (op b op' b' : Byte) (a a' : Word) (k : BitVec 3), s.cfg.wf = true →
    Answers s op b a ⟨0#16, 0#8, 0#1, k⟩ →
    ∃ r, Answers s op' b' a' r ∧ Answers ((s.setIn op b a).setOut ⟨0#16, 0#8, 0#1, k⟩) op' b' a' r

/-! ### Invariants of every step -/

/-- 10_state.md R11, R13: the output ports stay the function of the input ports that R56 gives. -/
def Obligations.EveryStepKeepsPortsCombinational : Prop :=
  ∀ s t : State, PortsCombinational s → step s = .next t → PortsCombinational t

/-- The ports are combinational in the reset state (the input ports there are the model's choice: log entry 7). -/
def Obligations.ResetPortsAreCombinational : Prop := PortsCombinational State.reset

/-- 30_encoding.md R53, 60_exceptions.md R96: no step shows a reserved code, `ConversionTimeout`, or `BusError` on the
outputs. -/
def Obligations.EveryStepKeepsStatusesLegal : Prop :=
  ∀ s t : State, StatusesLegal s → step s = .next t → StatusesLegal t

/-- 30_encoding.md R53 at reset (the pair and the outputs there are the model's choice: log entries 7, 8). -/
def Obligations.ResetStatusesAreLegal : Prop := StatusesLegal State.reset

/-- 10_state.md R19: no step writes `Config` (or the bus handle), and the log of transport calls only grows. -/
def Obligations.ConfigIsConstantAndLogGrows : Prop :=
  ∀ s t : State, step s = .next t →
    t.cfg = s.cfg ∧ t.handle = s.handle ∧ ∃ more, t.log = s.log ++ more ∧ more.length ≤ 1

/-- 30_encoding.md R50, 43_calibration.md R80: a `Config` that is not well-formed is refused, in particular one with a
zero denominator, two equal codes, or another channel or gain of a voltage measurement; this hardware's is well-
formed. That EVERY step is refused is the model's choice (log entry 6), that another `OS_START` or timeout is ill-
formed too (log entry 5), and this hardware's codes are presumed (log entry 4). -/
def Obligations.IllFormedConfigIsRefused : Prop :=
  (∀ s : State, s.cfg.wf = false → step s = .refused .configNotWellFormed)
  ∧ hardwareConfig.wf = true
  ∧ ∀ c : Config, c.wf = true →
    1 ≤ c.packDen ∧ 1 ≤ c.chgvDen ∧ 1 ≤ c.maDen
    ∧ c.packNum ≤ 65535 ∧ c.chgvNum ≤ 65535 ∧ c.maNum ≤ 65535 ∧ c.packDen ≤ 65535 ∧ c.chgvDen ≤ 65535
    ∧ c.maDen ≤ 65535 ∧ 4095 * c.packNum / c.packDen ≤ 65535 ∧ 4095 * c.chgvNum / c.chgvDen ≤ 65535
    ∧ 2048 * c.maNum / c.maDen ≤ 32767 ∧ c.packCh = 3 ∧ c.packGain = 1 ∧ c.chgvCh = 2 ∧ c.chgvGain = 2
    ∧ (∀ t u : Selection, c.mux t = c.mux u → t = u) ∧ (∀ g h : Fin 6, c.pga g = c.pga h → g = h)

/-- 00_scope.md R4: the values of this hardware are well-formed, whatever the OPEN fields are. -/
def Obligations.HardwareConfigIsWellFormed : Prop :=
  hardwareConfig.wf = true ∧ ∀ (g : Fin 6) (n : BitVec 1) (d : BitVec 7) (t : Nat),
    ({ hardwareConfig with maGain := g, maNegate := n, devAddr := d, convDelay := t } : Config).wf = true

/-! ### Wire frames -/

/-- 40_wire_frames.md R60. -/
def Obligations.FrameWrLaysOutPointerAndValue : Prop :=
  SelectsRow .frameWr 0xFF000000#32 0x00000000#32
  ∧ ∀ (s : State) (b : Byte) (a : Word), encode (.frameWr b a) = cw 0x00#8 b a
    ∧ exec (.frameWr b a) s = .next (s.setOut ⟨a, b, 0#1, 0#3⟩)
    ∧ (s.cfg.wf = true → Answers s 0x00#8 b a ⟨a, b, 0#1, 0#3⟩)
    ∧ (Frame.write .outX .outYHi .outYLo).bytes (s.setOut ⟨a, b, 0#1, 0#3⟩)
        = [b, a.extractLsb' 8 8, a.extractLsb' 0 8]

/-- 40_wire_frames.md R61. -/
def Obligations.FrameRdLaysOutPointer : Prop :=
  SelectsRow .frameRd 0xFF00FFFF#32 0x01000000#32
  ∧ ∀ (s : State) (b : Byte), encode (.frameRd b) = cw 0x01#8 b 0#16
    ∧ exec (.frameRd b) s = .next (s.setOut ⟨0#16, b, 0#1, 0#3⟩)
    ∧ (s.cfg.wf = true → Answers s 0x01#8 b 0#16 ⟨0#16, b, 0#1, 0#3⟩)
    ∧ (∀ a : Word, s.cfg.wf = true → a ≠ 0#16 → Answers s 0x01#8 b a ⟨0#16, 0#8, 0#1, 4#3⟩)
    ∧ (Frame.pointer .outX).bytes (s.setOut ⟨0#16, b, 0#1, 0#3⟩) = [b]

/-- 40_wire_frames.md R62: the composed value is big-endian, and undoes the data part of `FRAME_WR`. -/
def Obligations.ComposeIsBigEndian : Prop :=
  SelectsRow .compose 0xFF00FF00#32 0x02000000#32
  ∧ ∀ (s : State) (b0 b1 : Byte),
    (∃ y : Word, y.toNat = 256 * b0.toNat + b1.toNat
      ∧ exec (.compose b0 b1) s = .next (s.setOut ⟨y, 0#8, 0#1, 0#3⟩)
      ∧ (s.cfg.wf = true → Answers s 0x02#8 b0 (b1.setWidth 16) ⟨y, 0#8, 0#1, 0#3⟩))
    ∧ (∀ a : Word, s.cfg.wf = true → a.extractLsb' 8 8 ≠ 0#8 → Answers s 0x02#8 b0 a ⟨0#16, 0#8, 0#1, 4#3⟩)
    ∧ ∀ v : Word, exec (.compose (v.extractLsb' 8 8) (v.extractLsb' 0 8)) s = .next (s.setOut ⟨v, 0#8, 0#1, 0#3⟩)

/-! ### Configuration codec -/

/-- 41_config_codec.md R63, 30_encoding.md R45: the assembled value has each field at its place, and with the field
codes of R46 to R49 it is `0x8183 | (u(m) << 12) | (g << 9)`, which gives the 36 values of the table after R68. The
codes are presumed (log entry 4). -/
def Obligations.ConfigurationWordHasItsFields : Prop :=
  (∀ (c : Config) (m : BitVec 3) (g : Fin 6),
    fOs (cfgword c m g) = c.osStart ∧ fMux (cfgword c m g) = m ∧ fPga (cfgword c m g) = c.pga g
    ∧ fMode (cfgword c m g) = c.modeSingle ∧ fDr (cfgword c m g) = c.dr1600 ∧ fComp (cfgword c m g) = c.compDefault)
  ∧ (∀ (m : BitVec 3) (g : Fin 6), cfgword hardwareConfig m g
      = 0x8183#16 ||| (m.setWidth 16 <<< 12) ||| (BitVec.ofNat 16 g.val <<< 9))
  ∧ Selection.all.map (fun t => gainIndices.map fun g => cfgword hardwareConfig (hardwareConfig.mux t) g)
    = [[0xC183#16, 0xC383#16, 0xC583#16, 0xC783#16, 0xC983#16, 0xCB83#16],
       [0xD183#16, 0xD383#16, 0xD583#16, 0xD783#16, 0xD983#16, 0xDB83#16],
       [0xE183#16, 0xE383#16, 0xE583#16, 0xE783#16, 0xE983#16, 0xEB83#16],
       [0xF183#16, 0xF383#16, 0xF583#16, 0xF783#16, 0xF983#16, 0xFB83#16],
       [0x8183#16, 0x8383#16, 0x8583#16, 0x8783#16, 0x8983#16, 0x8B83#16],
       [0xB183#16, 0xB383#16, 0xB583#16, 0xB783#16, 0xB983#16, 0xBB83#16]]

/-- 41_config_codec.md R64: success for every legal channel and gain, the two errors for every other operand, and a
valid request never yields zero. -/
def Obligations.EncSeEncodesSingleEndedChannel : Prop :=
  SelectsRow .encSe 0xFF00FFF8#32 0x03000000#32
  ∧ ∀ s : State,
    (∀ (ch : Fin 4) (g : Fin 6),
      exec (.encSe (BitVec.ofNat 8 ch.val) (BitVec.ofNat 3 g.val)) s
        = .next (s.setOut ⟨cfgword s.cfg (s.cfg.muxSe ch) g, 0#8, 1#1, 0#3⟩)
      ∧ (s.cfg.wf = true → Answers s 0x03#8 (BitVec.ofNat 8 ch.val) (BitVec.ofNat 16 g.val)
          ⟨cfgword s.cfg (s.cfg.muxSe ch) g, 0#8, 1#1, 0#3⟩)
      ∧ (s.cfg.wf = true → cfgword s.cfg (s.cfg.muxSe ch) g ≠ 0#16))
    ∧ (∀ (b : Byte) (a : Word), s.cfg.wf = true → 5 < a.toNat → Answers s 0x03#8 b a ⟨0#16, 0#8, 0#1, 4#3⟩)
    ∧ (∀ (b : Byte) (a : Word), s.cfg.wf = true → a.toNat ≤ 5 → 3 < b.toNat →
        Answers s 0x03#8 b a ⟨0#16, 0#8, 0#1, 1#3⟩)
    ∧ (∀ (b : Byte) (g : BitVec 3), 5 < g.toNat → exec (.encSe b g) s = .next (s.setOut ⟨0#16, 0#8, 0#1, 4#3⟩))
    ∧ (∀ (b : Byte) (g : BitVec 3), g.toNat ≤ 5 → 3 < b.toNat →
        exec (.encSe b g) s = .next (s.setOut ⟨0#16, 0#8, 0#1, 1#3⟩))

/-- 41_config_codec.md R65. -/
def Obligations.EncD01EncodesChannelZeroMinusOne : Prop :=
  SelectsRow .encD01 0xFFFFFFF8#32 0x04000000#32
  ∧ ∀ s : State,
    (∀ g : Fin 6,
      exec (.encD01 (BitVec.ofNat 3 g.val)) s = .next (s.setOut ⟨cfgword s.cfg s.cfg.muxD01 g, 0#8, 1#1, 0#3⟩)
      ∧ (s.cfg.wf = true →
          Answers s 0x04#8 0#8 (BitVec.ofNat 16 g.val) ⟨cfgword s.cfg s.cfg.muxD01 g, 0#8, 1#1, 0#3⟩))
    ∧ (∀ (b : Byte) (a : Word), s.cfg.wf = true → b ≠ 0#8 ∨ 5 < a.toNat →
        Answers s 0x04#8 b a ⟨0#16, 0#8, 0#1, 4#3⟩)
    ∧ ∀ g : BitVec 3, 5 < g.toNat → exec (.encD01 g) s = .next (s.setOut ⟨0#16, 0#8, 0#1, 4#3⟩)

/-- 41_config_codec.md R66. -/
def Obligations.EncD23EncodesChannelTwoMinusThree : Prop :=
  SelectsRow .encD23 0xFFFFFFF8#32 0x05000000#32
  ∧ ∀ s : State,
    (∀ g : Fin 6,
      exec (.encD23 (BitVec.ofNat 3 g.val)) s = .next (s.setOut ⟨cfgword s.cfg s.cfg.muxD23 g, 0#8, 1#1, 0#3⟩)
      ∧ (s.cfg.wf = true →
          Answers s 0x05#8 0#8 (BitVec.ofNat 16 g.val) ⟨cfgword s.cfg s.cfg.muxD23 g, 0#8, 1#1, 0#3⟩))
    ∧ (∀ (b : Byte) (a : Word), s.cfg.wf = true → b ≠ 0#8 ∨ 5 < a.toNat →
        Answers s 0x05#8 b a ⟨0#16, 0#8, 0#1, 4#3⟩)
    ∧ ∀ g : BitVec 3, 5 < g.toNat → exec (.encD23 g) s = .next (s.setOut ⟨0#16, 0#8, 0#1, 4#3⟩)

/-- 41_config_codec.md R67: a value whose fields are the codes of a selection and a gain decodes to them, any other is
the error result; only bits 14:9 matter. -/
def Obligations.DecRecoversSelectionAndGain : Prop :=
  SelectsRow .dec 0xFFFF0000#32 0x06000000#32
  ∧ ∀ (s : State) (v : Word), s.cfg.wf = true →
    (∀ (t : Selection) (g : Fin 6), fMux v = s.cfg.mux t → fPga v = s.cfg.pga g →
      exec (.dec v) s = .next (s.setOut ⟨BitVec.ofNat 16 g.val, t.id, 0#1, 0#3⟩)
      ∧ Answers s 0x06#8 0#8 v ⟨BitVec.ofNat 16 g.val, t.id, 0#1, 0#3⟩)
    ∧ ((∀ t : Selection, fMux v ≠ s.cfg.mux t) ∨ (∀ g : Fin 6, fPga v ≠ s.cfg.pga g) →
      exec (.dec v) s = .next (s.setOut ⟨0#16, 0#8, 0#1, 4#3⟩) ∧ Answers s 0x06#8 0#8 v ⟨0#16, 0#8, 0#1, 4#3⟩)
    ∧ (∀ b : Byte, b ≠ 0#8 → Answers s 0x06#8 b v ⟨0#16, 0#8, 0#1, 4#3⟩)
    ∧ ∀ w : Word, w.extractLsb' 9 6 = v.extractLsb' 9 6 → exec (.dec w) s = exec (.dec v) s

/-- 41_config_codec.md R68: for every well-formed `Config`, selection and gain, decoding what the encoder answered gives
the selection id and the gain index back. (The 36 values under this hardware's codes are in
ConfigurationWordHasItsFields.) -/
def Obligations.EncodeThenDecRoundTrip : Prop :=
  ∀ (s : State) (t : Selection) (g : Fin 6) (i : Instr), s.cfg.wf = true →
    i = (match t with
      | .se ch => .encSe (BitVec.ofNat 8 ch.val) (BitVec.ofNat 3 g.val)
      | .d01 => .encD01 (BitVec.ofNat 3 g.val)
      | .d23 => .encD23 (BitVec.ofNat 3 g.val)) →
    ∃ u : State, exec i s = .next u ∧ u.out.st = 0#3
      ∧ exec (.dec u.out.y) u = .next (u.setOut ⟨BitVec.ofNat 16 g.val, t.id, 0#1, 0#3⟩)

/-! ### Alignment and sign-extension -/

/-- 42_result_align_sext.md R69. -/
def Obligations.AlignDiscardsPadding : Prop :=
  SelectsRow .align12 0xFFFF0000#32 0x07000000#32
  ∧ ∀ (s : State) (v : Word),
    (∃ y : Word, y.toNat = v.toNat / 16 ∧ y.extractLsb' 12 4 = 0#4 ∧ y.extractLsb' 0 12 = v.extractLsb' 4 12
      ∧ exec (.align12 v) s = .next (s.setOut ⟨y, 0#8, 0#1, 0#3⟩)
      ∧ (s.cfg.wf = true → Answers s 0x07#8 0#8 v ⟨y, 0#8, 0#1, 0#3⟩))
    ∧ ∀ b : Byte, s.cfg.wf = true → b ≠ 0#8 → Answers s 0x07#8 b v ⟨0#16, 0#8, 0#1, 4#3⟩

/-- 42_result_align_sext.md R70: the top four bits are forced to 1 when the 16-bit value exceeds 0x07FF; on 12-bit codes
this is the sign-extension, and doing it twice changes nothing more. -/
def Obligations.SextForcesTopBitsAboveSevenFF : Prop :=
  SelectsRow .sext12 0xFFFF0000#32 0x08000000#32
  ∧ ∀ (s : State) (v : Word),
    (∃ y : Word, (0x07FF < v.toNat → y = 0xF#4 ++ v.extractLsb' 0 12) ∧ (v.toNat ≤ 0x07FF → y = v)
      ∧ (v.toNat ≤ 0x0FFF → y.toInt = (v.extractLsb' 0 12).toInt)
      ∧ exec (.sext12 v) s = .next (s.setOut ⟨y, 0#8, 0#1, 0#3⟩)
      ∧ exec (.sext12 y) s = .next (s.setOut ⟨y, 0#8, 0#1, 0#3⟩)
      ∧ (s.cfg.wf = true → Answers s 0x08#8 0#8 v ⟨y, 0#8, 0#1, 0#3⟩))
    ∧ ∀ b : Byte, s.cfg.wf = true → b ≠ 0#8 → Answers s 0x08#8 b v ⟨0#16, 0#8, 0#1, 4#3⟩

/-- 42_result_align_sext.md R71: the two operations one after the other are division by 16 rounded down. -/
def Obligations.AlignThenSextIsFloorDivision : Prop :=
  ∀ (s : State) (v : Word), ∃ t u : State,
    exec (.align12 v) s = .next t ∧ exec (.sext12 t.out.y) t = .next u
    ∧ t.out.y.toNat = v.toNat / 16 ∧ u.out.y.toInt = Int.floor ((v.toInt : ℚ) / 16) ∧ u.out.y = v.sshiftRight 4

/-! ### Measurement configuration and scaler -/

/-- 43_calibration.md R74: the configuration of the pack voltage is that of channel 3 at gain index 1. -/
def Obligations.CfgPackSelectsChannelThreeGainOne : Prop :=
  SelectsRow .cfgPack 0xFFFFFFFF#32 0x09000000#32
  ∧ ∀ s : State, s.cfg.wf = true →
    exec .cfgPack s = .next (s.setOut ⟨cfgword s.cfg s.cfg.muxSe3 1, 0#8, 1#1, 0#3⟩)
    ∧ Answers s 0x09#8 0#8 0#16 ⟨cfgword s.cfg s.cfg.muxSe3 1, 0#8, 1#1, 0#3⟩
    ∧ exec .cfgPack s = exec (.encSe 3#8 1#3) s
    ∧ ∀ (b : Byte) (a : Word), b ≠ 0#8 ∨ a ≠ 0#16 → Answers s 0x09#8 b a ⟨0#16, 0#8, 0#1, 4#3⟩

/-- 43_calibration.md R75: the configuration of the charger voltage is that of channel 2 at gain index 2. -/
def Obligations.CfgChgvSelectsChannelTwoGainTwo : Prop :=
  SelectsRow .cfgChgv 0xFFFFFFFF#32 0x0A000000#32
  ∧ ∀ s : State, s.cfg.wf = true →
    exec .cfgChgv s = .next (s.setOut ⟨cfgword s.cfg s.cfg.muxSe2 2, 0#8, 1#1, 0#3⟩)
    ∧ Answers s 0x0A#8 0#8 0#16 ⟨cfgword s.cfg s.cfg.muxSe2 2, 0#8, 1#1, 0#3⟩
    ∧ exec .cfgChgv s = exec (.encSe 2#8 2#3) s
    ∧ ∀ (b : Byte) (a : Word), b ≠ 0#8 ∨ a ≠ 0#16 → Answers s 0x0A#8 b a ⟨0#16, 0#8, 0#1, 4#3⟩

/-- 43_calibration.md R76: the configuration of the charger current is that of channel 0 minus channel 1 at `MA_GAIN`,
which is index 5 under V16 and 2 under V2N; any pair of the two OPEN fields is well-formed. -/
def Obligations.CfgChgiSelectsPairAtConfiguredGain : Prop :=
  SelectsRow .cfgChgi 0xFFFFFFFF#32 0x0B000000#32
  ∧ (∀ (c : Config) (g : Fin 6) (n : BitVec 1), c.wf = true → ({ c with maGain := g, maNegate := n } : Config).wf = true)
  ∧ (∀ c : Config, c.v16.maGain = 5 ∧ c.v16.maNegate = 0#1 ∧ c.v2n.maGain = 2 ∧ c.v2n.maNegate = 1#1)
  ∧ ∀ s : State,
    exec .cfgChgi s = .next (s.setOut ⟨cfgword s.cfg s.cfg.muxD01 s.cfg.maGain, 0#8, 1#1, 0#3⟩)
    ∧ (s.cfg.wf = true →
        Answers s 0x0B#8 0#8 0#16 ⟨cfgword s.cfg s.cfg.muxD01 s.cfg.maGain, 0#8, 1#1, 0#3⟩)
    ∧ exec .cfgChgi s = exec (.encD01 (BitVec.ofNat 3 s.cfg.maGain.val)) s
    ∧ ∀ (b : Byte) (a : Word), s.cfg.wf = true → b ≠ 0#8 ∨ a ≠ 0#16 → Answers s 0x0B#8 b a ⟨0#16, 0#8, 0#1, 4#3⟩

/-- 43_calibration.md R77, R81: the exact quotient rounded down, never reduced, for every well-formed `Config`; 1000/71
and at most 57676 for this hardware. -/
def Obligations.ScalePackIsExactQuotient : Prop :=
  SelectsRow .scalePack 0xFFFFF000#32 0x0C000000#32
  ∧ hardwareConfig.packNum = 1000 ∧ hardwareConfig.packDen = 71
  ∧ ∀ s : State, s.cfg.wf = true →
    (∀ r : BitVec 12, ∃ y : Word, y.toNat = r.toNat * s.cfg.packNum / s.cfg.packDen
      ∧ (s.cfg.packNum = 1000 → s.cfg.packDen = 71 → y.toNat = r.toNat * 1000 / 71 ∧ y.toNat ≤ 57676)
      ∧ exec (.scalePack r) s = .next (s.setOut ⟨y, 0#8, 0#1, 0#3⟩)
      ∧ Answers s 0x0C#8 0#8 (r.setWidth 16) ⟨y, 0#8, 0#1, 0#3⟩)
    ∧ ∀ (b : Byte) (a : Word), b ≠ 0#8 ∨ 4095 < a.toNat → Answers s 0x0C#8 b a ⟨0#16, 0#8, 0#1, 4#3⟩

/-- 43_calibration.md R78, R81: the exact quotient, never reduced, for every well-formed `Config`; four times the raw
code for this hardware. -/
def Obligations.ScaleChgvIsExactQuotient : Prop :=
  SelectsRow .scaleChgv 0xFFFFF000#32 0x0D000000#32
  ∧ hardwareConfig.chgvNum = 4 ∧ hardwareConfig.chgvDen = 1
  ∧ ∀ s : State, s.cfg.wf = true →
    (∀ r : BitVec 12, ∃ y : Word, y.toNat = r.toNat * s.cfg.chgvNum / s.cfg.chgvDen
      ∧ (s.cfg.chgvNum = 4 → s.cfg.chgvDen = 1 → y.toNat = 4 * r.toNat)
      ∧ exec (.scaleChgv r) s = .next (s.setOut ⟨y, 0#8, 0#1, 0#3⟩)
      ∧ Answers s 0x0D#8 0#8 (r.setWidth 16) ⟨y, 0#8, 0#1, 0#3⟩)
    ∧ ∀ (b : Byte) (a : Word), b ≠ 0#8 ∨ 4095 < a.toNat → Answers s 0x0D#8 b a ⟨0#16, 0#8, 0#1, 4#3⟩

/-- 43_calibration.md R79, R81: the exact quotient rounded toward zero, negated when `MA_NEGATE` is 1, in range for
every well-formed `Config`; the raw code itself or its negation with the factor 1/1. An illegal operand is the error
result. -/
def Obligations.ScaleChgiScalesThenNegates : Prop :=
  SelectsRow .scaleChgi 0xFFFF0000#32 0x0E000000#32
  ∧ hardwareConfig.maNum = 1 ∧ hardwareConfig.maDen = 1
  ∧ ∀ s : State, s.cfg.wf = true →
    (∀ r : Word, -2048 ≤ r.toInt → r.toInt ≤ 2047 → ∃ y : Word,
      (s.cfg.maNegate = 0#1 → y.toInt = (r.toInt * s.cfg.maNum).tdiv s.cfg.maDen)
      ∧ (s.cfg.maNegate = 1#1 → y.toInt = -(r.toInt * s.cfg.maNum).tdiv s.cfg.maDen)
      ∧ -32767 ≤ y.toInt ∧ y.toInt ≤ 32767
      ∧ (s.cfg.maNum = 1 → s.cfg.maDen = 1 → s.cfg.maNegate = 0#1 → y = r)
      ∧ (s.cfg.maNum = 1 → s.cfg.maDen = 1 → s.cfg.maNegate = 1#1 → y.toInt = -r.toInt)
      ∧ exec (.scaleChgi r) s = .next (s.setOut ⟨y, 0#8, 0#1, 0#3⟩)
      ∧ Answers s 0x0E#8 0#8 r ⟨y, 0#8, 0#1, 0#3⟩)
    ∧ (∀ r : Word, r.toInt < -2048 ∨ 2047 < r.toInt →
        exec (.scaleChgi r) s = .next (s.setOut ⟨0#16, 0#8, 0#1, 4#3⟩)
        ∧ Answers s 0x0E#8 0#8 r ⟨0#16, 0#8, 0#1, 4#3⟩)
    ∧ ∀ (b : Byte) (a : Word), b ≠ 0#8 → Answers s 0x0E#8 b a ⟨0#16, 0#8, 0#1, 4#3⟩

/-- 43_calibration.md R72: the signed scaler is odd in the raw code and rounds toward zero; the unsigned one rounds down
and is monotonic. -/
def Obligations.ScalerRoundsAsStated : Prop :=
  (∀ (r : Int) (num den : Nat), scaleS (-r) num den = -scaleS r num den)
  ∧ (∀ (r : Int) (num den : Nat), 1 ≤ den → (scaleS r num den).natAbs = (r * num).natAbs / den)
  ∧ (∀ r num den : Nat, 1 ≤ den → scaleU r num den * den ≤ r * num ∧ r * num < (scaleU r num den + 1) * den)
  ∧ ∀ r r' num den : Nat, r ≤ r' → scaleU r num den ≤ scaleU r' num den

/-! ### The device and the transport -/

/-- 20_memory.md R26, R30, R31; 60_exceptions.md R95: a transmitted write frame for the configuration register is one
call of three bytes; when it reaches the device the register holds the value and, with `OS` = 1, a conversion is in
progress; a call that failed may or may not have reached it, as the transport's answer says. The model's choice: a
write with `OS` = 1 replaces a conversion in progress and one with `OS` = 0 leaves it running (log entry 30); for
which words the result is defined (log entries 15, 30, 31); the failed call (log entry 12); the update as one (log entry 27); the field `readEarly`
(log entry 32). -/
def Obligations.ConfigurationWriteStartsConversion : Prop :=
  ∀ (s : State) (p h l : ByteSource) (rest : List HostStep) (r : BusReply) (sc : List BusReply), s.cfg.wf = true →
    s.handle = true → p.eval s = 0x01#8 → s.todo = .tx (.write p h l) :: rest → s.script = r :: sc →
    ∃ d : Device, step s = .next { s with
        todo := rest, script := sc, fresh := s.fresh + 1, dev := d
        busOk := (match r with | .fail _ => false | _ => true)
        log := s.log ++ [.transmit s.cfg.devAddr [0x01#8, h.eval s, l.eval s] 100] }
      ∧ (r ≠ .fail false → d.conf = h.eval s ++ l.eval s ∧ d.ptr = 0x01#8 ∧ d.conv = s.dev.conv ∧ d.readEarly = false
          ∧ (d.conf.extractLsb' 15 1 = 1#1 → d.inFlight = some (d.conf, 0)
              ∧ (d.convDefined = true ↔ fMode d.conf = s.cfg.modeSingle ∧ fDr d.conf = s.cfg.dr1600
                  ∧ (∃ t : Selection, fMux d.conf = s.cfg.mux t) ∧ ∃ g : Fin 6, fPga d.conf = s.cfg.pga g))
          ∧ (d.conf.extractLsb' 15 1 = 0#1 → d.inFlight = s.dev.inFlight
              ∧ (d.convDefined = true ↔ s.dev.convDefined = true ∧ s.dev.inFlight = none
                  ∧ fMode d.conf = s.cfg.modeSingle)))
      ∧ (r = .fail false → d = s.dev)

/-- 20_memory.md R27, R28, R31, R34; 10_state.md R17, R23: a receive that succeeds delivers the pointed register most
significant byte first, or the bytes the transport delivers; one that fails delivers none. The conversion register's
value is the one it holds when no conversion is in progress, the read was not started in one (R111) and the last
conversion is one the spec describes, and a free value otherwise; of the configuration register every bit but 15 is
the one last written. The model's choice: that a read leaves the device as it was is an assumption (R31; log entry
22, unsafe); which conversions are described (log entries 15, 31); bit 15 (log entry 17); the refusal (log entry 16); the
field that keeps an early start (log entry 32). -/
def Obligations.ReceiveDeliversPointedRegister : Prop :=
  ∀ (s : State) (rest : List HostStep) (r : BusReply) (sc : List BusReply), s.cfg.wf = true → s.handle = true →
    s.todo = .rx :: rest → s.script = r :: sc →
    (s.dev.ptr = 0x00#8 ∨ s.dev.ptr = 0x01#8 → (∀ reached, r ≠ .fail reached) →
      ∃ (v : Word) (bs : List Byte), step s = .next { s with
          todo := rest, script := sc, fresh := s.fresh + 1, busOk := true, rxBuf := bs
          log := s.log ++ [.receive s.cfg.devAddr 2 100] }
        ∧ (r = .ok → bs = [v.extractLsb' 8 8, v.extractLsb' 0 8]) ∧ (∀ given, r = .deliver given → bs = given)
        ∧ (s.dev.ptr = 0x00#8 →
            (s.dev.inFlight = none ∧ s.dev.readEarly = false ∧ s.dev.convDefined = true → v = s.dev.conv)
            ∧ (s.dev.inFlight ≠ none ∨ s.dev.readEarly = true ∨ s.dev.convDefined = false → v = Config.freeRead s.fresh))
        ∧ (s.dev.ptr = 0x01#8 → v.extractLsb' 0 15 = s.dev.conf.extractLsb' 0 15))
    ∧ (1 < s.dev.ptr.toNat → (∀ reached, r ≠ .fail reached) → step s = .refused (.deviceAccessUndefined s.dev.ptr))
    ∧ ((∃ reached, r = .fail reached) → step s = .next { s with
          todo := rest, script := sc, fresh := s.fresh + 1, busOk := false, rxBuf := []
          log := s.log ++ [.receive s.cfg.devAddr 2 100] })

/-- 70_reset_and_hazards.md R111, 20_memory.md R36: when the host has waited at least `CONV_DELAY` since the write the
conversion in progress has ended and its result is in the conversion register; without one in progress a wait
changes nothing. R111 says this of conversions at 1600 samples per second only. The model's choice, not R111's: that a
conversion at another rate, of another input or gain code (log entry 31) or in continuous mode (log entry 15) ends
after `CONV_DELAY` too; that the conversion has NOT ended before, and that the time counted is that of the WAIT steps
(log entry 14); that the result is the next of the list `adc` (log entry 13). -/
def Obligations.WaitingTheDelayEndsTheConversion : Prop :=
  (∀ (s : State) (t waited : Nat) (v : Word) (rest : List HostStep), s.cfg.wf = true → s.todo = .wait t :: rest →
    s.dev.inFlight = some (v, waited) →
    (s.cfg.convDelay ≤ waited + t → ∃ r : Word, (∀ x ad, s.adc = x :: ad → r = x)
      ∧ step s = .next { s with
          todo := rest, adc := s.adc.tail, fresh := s.fresh + 1, dev := { s.dev with conv := r, inFlight := none } })
    ∧ (waited + t < s.cfg.convDelay →
        step s = .next { s with todo := rest, dev := { s.dev with inFlight := some (v, waited + t) } }))
  ∧ ∀ (s : State) (t : Nat) (rest : List HostStep), s.cfg.wf = true → s.todo = .wait t :: rest →
    s.dev.inFlight = none → step s = .next { s with todo := rest }

/-- 20_memory.md R33, 93_implementation_defined.md U6: a frame that reaches the device, with whatever answer, and writes
the conversion register or names a pointer outside the map, is refused by name; without an initialised bus handle every
call is (R110). The refusals are the model's form (log entries 16, 20). -/
def Obligations.UnlistedDeviceAccessIsRefused : Prop :=
  (∀ (s : State) (p h l : ByteSource) (rest : List HostStep) (r : BusReply) (sc : List BusReply), s.cfg.wf = true →
    s.handle = true → s.todo = .tx (.write p h l) :: rest → s.script = r :: sc → replyReaches r = true →
    p.eval s ≠ 0x01#8 → step s = .refused (.deviceAccessUndefined (p.eval s)))
  ∧ (∀ (s : State) (p : ByteSource) (rest : List HostStep) (r : BusReply) (sc : List BusReply), s.cfg.wf = true →
    s.handle = true → s.todo = .tx (.pointer p) :: rest → s.script = r :: sc → replyReaches r = true →
    1 < (p.eval s).toNat → step s = .refused (.deviceAccessUndefined (p.eval s)))
  ∧ (∀ r : BusReply, replyReaches r = true ↔ r ≠ .fail false)
  ∧ ∀ (s : State) (h : HostStep) (rest : List HostStep), s.cfg.wf = true → s.handle = false → s.todo = h :: rest →
    (h = .rx ∨ ∃ f, h = .tx f) → step s = .refused .busHandleNotInitialised

/-- 70_reset_and_hazards.md R115: with no host step left the run has ended; nothing else ends it so. -/
def Obligations.RunEndsWithTheLastHostStep : Prop :=
  ∀ s : State, s.cfg.wf = true → (step s = .fault .runEnded ↔ s.todo = [])

/-! ### Host sequences -/

/-- 44_sample_sequences.md R82: `WRITE_REG ptr, v` is one transmit of the frame, and returns its status. The model's
choice: the count of four steps (log entry 23), the value 0 and the codes OK and BusError for ok and fail (log entry
18, unsafe), what a failed write leaves (log entry 12), the refusal of a frame that reaches the device with another
pointer than 0x01 (log entry 16). -/
def Obligations.WriteRegTransmitsOneFrame : Prop :=
  ∀ (s : State) (ptr : Byte) (v : Word) (r : BusReply) (sc : List BusReply), s.cfg.wf = true → s.handle = true →
    s.script = r :: sc →
    (ptr = 0x01#8 ∨ r = .fail false →
      ∃ t : State, run 4 (s.starting (.writeReg ptr (.lit v))) = .next t
        ∧ t.log = s.log ++ [.transmit s.cfg.devAddr [ptr, v.extractLsb' 8 8, v.extractLsb' 0 8] 100]
        ∧ t.todo = s.todo ∧ t.script = sc ∧ t.ret.value = 0#16
        ∧ (r ≠ .fail false → t.dev.conf = v) ∧ (r = .fail false → t.dev = s.dev)
        ∧ ((∃ reached, r = .fail reached) → t.ret.status = 2#3)
        ∧ ((∀ reached, r ≠ .fail reached) → t.ret.status = 0#3))
    ∧ (ptr ≠ 0x01#8 → r ≠ .fail false →
      run 3 (s.starting (.writeReg ptr (.lit v))) = .refused (.deviceAccessUndefined ptr))

/-- 44_sample_sequences.md R83, 20_memory.md R32: `READ_REG ptr` returns the composed value when both calls succeed and
two bytes arrive (the device's own, or those the transport delivers), stops at a failed pointer transmit, and counts a
receive of any other number of bytes as a failure. The model's choice: the step counts (log entry 23), the codes OK and
BusError for ok and fail (log entry 18), the unchanged registers (log entry 22), the refusal of a frame that reaches
the device with a pointer outside the map (log entry 16), the field `readEarly` (log entry 32). -/
def Obligations.ReadRegComposesOrFails : Prop :=
  ∀ (s : State) (ptr : Byte) (sc : List BusReply), s.cfg.wf = true → s.handle = true →
    (∀ (r : BusReply) (w : Word), ptr = 0x00#8 ∨ ptr = 0x01#8 → s.script = .ok :: r :: sc → Delivers r s.dev.conv w →
      (r = .ok → ptr = 0x00#8 ∧ s.dev.inFlight = none ∧ s.dev.convDefined = true) →
      ∃ t : State, run 8 (s.starting (.readReg ptr)) = .next t ∧ t.ret = ⟨w, 0#3⟩ ∧ t.todo = s.todo
        ∧ t.dev = { s.dev with ptr := ptr, readEarly := s.dev.inFlight.isSome }
        ∧ t.log = s.log ++ [.transmit s.cfg.devAddr [ptr] 100, .receive s.cfg.devAddr 2 100])
    ∧ (ptr = 0x01#8 → s.script = .ok :: .ok :: sc →
      ∃ t : State, run 8 (s.starting (.readReg ptr)) = .next t ∧ t.ret.status = 0#3 ∧ t.todo = s.todo
        ∧ t.ret.value.extractLsb' 0 15 = s.dev.conf.extractLsb' 0 15
        ∧ t.log = s.log ++ [.transmit s.cfg.devAddr [ptr] 100, .receive s.cfg.devAddr 2 100])
    ∧ (∀ reached : Bool, ptr = 0x00#8 ∨ ptr = 0x01#8 ∨ reached = false → s.script = .fail reached :: sc →
      ∃ t : State, run 4 (s.starting (.readReg ptr)) = .next t ∧ t.ret = ⟨0#16, 2#3⟩ ∧ t.todo = s.todo
        ∧ t.log = s.log ++ [.transmit s.cfg.devAddr [ptr] 100])
    ∧ (∀ r : BusReply, ptr = 0x00#8 ∨ ptr = 0x01#8 →
      ((∃ reached, r = .fail reached) ∨ ∃ bs, r = .deliver bs ∧ bs.length ≠ 2) → s.script = .ok :: r :: sc →
      ∃ t : State, run 6 (s.starting (.readReg ptr)) = .next t ∧ t.ret = ⟨0#16, 2#3⟩ ∧ t.todo = s.todo
        ∧ t.log = s.log ++ [.transmit s.cfg.devAddr [ptr] 100, .receive s.cfg.devAddr 2 100])
    ∧ ∀ r : BusReply, 1 < ptr.toNat → r ≠ .fail false → s.script = r :: sc →
      run 3 (s.starting (.readReg ptr)) = .refused (.deviceAccessUndefined ptr)

/-- 44_sample_sequences.md R84: a single-ended sample returns the aligned result of the conversion its own configuration
word started; everything it changes is stated. The whole next state rests on the model's choices too: the inputs and
the counter (log entries 11, 13, 26), the wait of exactly `CONV_DELAY` that ends the conversion (log entry 14), the read that leaves the device (log entry 22, unsafe), the count of steps (log entry 23), the fields `convDefined` and
`readEarly` (log entries 15, 31, 32). -/
def Obligations.SampleSingleEndedReturnsAlignedResult : Prop :=
  ∀ (s : State) (ch : Fin 4) (g : Fin 6) (conv w : Word) (r : BusReply) (sc : List BusReply) (ad : List Word),
    s.cfg.wf = true → s.handle = true → s.script = .ok :: .ok :: r :: sc → s.adc = conv :: ad →
    Delivers r conv w →
    ∃ y : Word, y.toNat = w.toNat / 16 ∧
      run 22 (s.starting (.sampleSe (BitVec.ofNat 8 ch.val) (BitVec.ofNat 16 g.val)))
        = .next { s.sampled (cfgword s.cfg (s.cfg.muxSe ch) g) conv w sc ad with
            op := 0x07#8, b := 0#8, a := w, out := ⟨y, 0#8, 0#1, 0#3⟩, ret := ⟨y, 0#3⟩ }

/-- 44_sample_sequences.md R85, R86: a differential sample returns the signed 12-bit result, for both pairings. The
whole next state rests on the model's choices too: the inputs and the counter (log entries 11, 13, 26), the wait of
exactly `CONV_DELAY` that ends the conversion (log entry 14), the read that leaves the device (log entry 22, unsafe), the count of steps (log entry 23), the fields `convDefined` and
`readEarly` (log entries 15, 31, 32). -/
def Obligations.SampleDifferentialReturnsSignedResult : Prop :=
  ∀ (s : State) (q : HostSequence) (m : BitVec 3) (g : Fin 6) (conv w : Word) (r : BusReply) (sc : List BusReply)
    (ad : List Word),
    s.cfg.wf = true → s.handle = true → s.script = .ok :: .ok :: r :: sc → s.adc = conv :: ad →
    Delivers r conv w →
    (q = .sampleD01 (BitVec.ofNat 16 g.val) ∧ m = s.cfg.muxD01) ∨ (q = .sampleD23 (BitVec.ofNat 16 g.val) ∧ m = s.cfg.muxD23) →
    ∃ y : Word, y.toInt = w.toInt / 16 ∧ run 23 (s.starting q)
        = .next { s.sampled (cfgword s.cfg m g) conv w sc ad with
            op := 0x08#8, b := 0#8, a := BitVec.ofNat 16 (w.toNat / 16), out := ⟨y, 0#8, 0#1, 0#3⟩, ret := ⟨y, 0#3⟩ }

/-- 44_sample_sequences.md R84, 60_exceptions.md R93, R94: a request the encoder does not grant returns zero and the
encoder's status, with no transport call and the device as it was. The count of five steps is the model's (log entry
23). -/
def Obligations.RefusedSampleMakesNoTransportCall : Prop :=
  ∀ (s : State) (ch : Byte) (g : Word), s.cfg.wf = true →
    (g.toNat ≤ 5 → 3 < ch.toNat → ∃ t : State, run 5 (s.starting (.sampleSe ch g)) = .next t
      ∧ t.ret = ⟨0#16, 1#3⟩ ∧ t.log = s.log ∧ t.dev = s.dev ∧ t.script = s.script ∧ t.todo = s.todo)
    ∧ ∀ q : HostSequence, 5 < g.toNat → (q = .sampleSe ch g ∨ q = .sampleD01 g ∨ q = .sampleD23 g) →
      ∃ t : State, run 5 (s.starting q) = .next t
        ∧ t.ret = ⟨0#16, 4#3⟩ ∧ t.log = s.log ∧ t.dev = s.dev ∧ t.script = s.script ∧ t.todo = s.todo

/-- 44_sample_sequences.md R87: the pack voltage in millivolts. The whole next state rests on the model's choices too:
the inputs and the counter (log entries 11, 13, 26), the wait of exactly `CONV_DELAY` that ends the conversion (log
entry 14), the read that leaves the device (log entry 22, unsafe), the count of steps (log entry 23), the fields `convDefined` and
`readEarly` (log entries 15, 31, 32). -/
def Obligations.PackMvReturnsScaledMillivolts : Prop :=
  ∀ (s : State) (conv w : Word) (r : BusReply) (sc : List BusReply) (ad : List Word),
    s.cfg.wf = true → s.handle = true → s.script = .ok :: .ok :: r :: sc → s.adc = conv :: ad →
    Delivers r conv w →
    ∃ y : Word, y.toNat = w.toNat / 16 * s.cfg.packNum / s.cfg.packDen ∧ run 24 (s.starting .packMv)
        = .next { s.sampled (cfgword s.cfg s.cfg.muxSe3 1) conv w sc ad with
            op := 0x0C#8, b := 0#8, a := BitVec.ofNat 16 (w.toNat / 16), out := ⟨y, 0#8, 0#1, 0#3⟩, ret := ⟨y, 0#3⟩ }

/-- 44_sample_sequences.md R88: the charger voltage in millivolts. The whole next state rests on the model's choices
too: the inputs and the counter (log entries 11, 13, 26), the wait of exactly `CONV_DELAY` that ends the conversion
(log entry 14), the read that leaves the device (log entry 22, unsafe), the count of steps (log entry 23), the fields `convDefined` and
`readEarly` (log entries 15, 31, 32). -/
def Obligations.ChgMvReturnsScaledMillivolts : Prop :=
  ∀ (s : State) (conv w : Word) (r : BusReply) (sc : List BusReply) (ad : List Word),
    s.cfg.wf = true → s.handle = true → s.script = .ok :: .ok :: r :: sc → s.adc = conv :: ad →
    Delivers r conv w →
    ∃ y : Word, y.toNat = w.toNat / 16 * s.cfg.chgvNum / s.cfg.chgvDen ∧ run 24 (s.starting .chgMv)
        = .next { s.sampled (cfgword s.cfg s.cfg.muxSe2 2) conv w sc ad with
            op := 0x0D#8, b := 0#8, a := BitVec.ofNat 16 (w.toNat / 16), out := ⟨y, 0#8, 0#1, 0#3⟩, ret := ⟨y, 0#3⟩ }

/-- 44_sample_sequences.md R89: the charger current in milliamps, with the gain and the sign of `Config`. The whole next
state rests on the model's choices too: the inputs and the counter (log entries 11, 13, 26), the wait of exactly
`CONV_DELAY` that ends the conversion (log entry 14), the read that leaves the device (log entry 22, unsafe), the count of steps (log entry 23), the fields `convDefined` and
`readEarly` (log entries 15, 31, 32). -/
def Obligations.ChgMaReturnsSignedMilliamps : Prop :=
  ∀ (s : State) (conv w : Word) (r : BusReply) (sc : List BusReply) (ad : List Word),
    s.cfg.wf = true → s.handle = true → s.script = .ok :: .ok :: r :: sc → s.adc = conv :: ad →
    Delivers r conv w →
    ∃ y raw : Word, raw.toInt = w.toInt / 16
      ∧ (s.cfg.maNegate = 0#1 → y.toInt = (raw.toInt * s.cfg.maNum).tdiv s.cfg.maDen)
      ∧ (s.cfg.maNegate = 1#1 → y.toInt = -(raw.toInt * s.cfg.maNum).tdiv s.cfg.maDen)
      ∧ run 25 (s.starting .chgMa)
        = .next { s.sampled (cfgword s.cfg s.cfg.muxD01 s.cfg.maGain) conv w sc ad with
            op := 0x0E#8, b := 0#8, a := raw, out := ⟨y, 0#8, 0#1, 0#3⟩, ret := ⟨y, 0#3⟩ }

/-- 60_exceptions.md R95: `sample` stops at the first transport call that fails, makes no further call and returns
`(0, BusError)`; a receive of another number of bytes than two is such a failure. The step counts are the model's (log
entry 23). -/
def Obligations.SampleStopsAtTheFirstBusFailure : Prop :=
  ∀ (s : State) (signed reached : Bool) (sc : List BusReply) (r : BusReply), s.cfg.wf = true → s.handle = true →
    s.out.go = 1#1 →
    (s.script = .fail reached :: sc → ∃ t : State, run 7 (s.starting (.sample signed)) = .next t
      ∧ t.ret = ⟨0#16, 2#3⟩ ∧ t.todo = s.todo ∧ t.log = s.log ++ (sampleCalls s.cfg s.out.y).take 1)
    ∧ (s.script = .ok :: .fail reached :: sc → ∃ t : State, run 13 (s.starting (.sample signed)) = .next t
      ∧ t.ret = ⟨0#16, 2#3⟩ ∧ t.todo = s.todo ∧ t.log = s.log ++ (sampleCalls s.cfg s.out.y).take 2)
    ∧ (s.script = .ok :: .ok :: r :: sc → (r = .fail reached ∨ ∃ bs, r = .deliver bs ∧ bs.length ≠ 2) →
      ∃ t : State, run 15 (s.starting (.sample signed)) = .next t
      ∧ t.ret = ⟨0#16, 2#3⟩ ∧ t.todo = s.todo ∧ t.log = s.log ++ sampleCalls s.cfg s.out.y)

/-- 44_sample_sequences.md R90, 60_exceptions.md R101: whatever the transport and the device answer, each measurement
ends within 25 steps with the host's remaining steps as they were, after at most three transport calls, and returns
`OK`, or `BusError` with value 0. The bound in steps is the model's count (log entry 23). -/
def Obligations.MeasurementsEndWithOkOrBusError : Prop :=
  ∀ (s : State) (q : HostSequence), s.cfg.wf = true → s.handle = true → (q = .packMv ∨ q = .chgMv ∨ q = .chgMa) →
    ∃ (n : Nat) (t : State), n ≤ 25 ∧ run n (s.starting q) = .next t ∧ t.todo = s.todo
      ∧ (t.ret.status = 0#3 ∨ (t.ret.status = 2#3 ∧ t.ret.value = 0#16))
      ∧ ∃ calls, t.log = s.log ++ calls ∧ calls.length ≤ 3

/-- 44_sample_sequences.md R90, R91: the same for the sampling sequences, with every operand; a call is made only after
the configuration word of this very request. The bound in steps is the model's count (log entry 23). -/
def Obligations.SamplesEndAfterAtMostThreeCalls : Prop :=
  ∀ (s : State) (q : HostSequence) (ch : Byte) (g : Word), s.cfg.wf = true → s.handle = true →
    (q = .sampleSe ch g ∨ q = .sampleD01 g ∨ q = .sampleD23 g) →
    ∃ (n : Nat) (t : State), n ≤ 23 ∧ run n (s.starting q) = .next t ∧ t.todo = s.todo
      ∧ (t.ret.status ≠ 0#3 → t.ret.value = 0#16)
      ∧ ∃ calls, t.log = s.log ++ calls ∧ calls.length ≤ 3
        ∧ (calls = [] ↔ t.ret.status = 1#3 ∨ t.ret.status = 4#3)

/-! ### Further statements -/

/-- 30_encoding.md R52 (b), 40_wire_frames.md R61: a pointer frame for one of the two registers that reaches the device
sets the register pointer and leaves the registers and the conversion in progress as they were; it is the start of a
read, and too early for one of the conversion register while a conversion is in progress (70_reset_and_hazards.md
R111; that the model keeps this in a field is its choice, log entry 32). What a failed call leaves is log entry 12. -/
def Obligations.PointerFrameSetsThePointer : Prop :=
  ∀ (s : State) (p : ByteSource) (rest : List HostStep) (r : BusReply) (sc : List BusReply), s.cfg.wf = true →
    s.handle = true → p.eval s = 0x00#8 ∨ p.eval s = 0x01#8 → s.todo = .tx (.pointer p) :: rest → s.script = r :: sc →
    ∃ d : Device, step s = .next { s with
        todo := rest, script := sc, fresh := s.fresh + 1, dev := d
        busOk := (match r with | .fail _ => false | _ => true)
        log := s.log ++ [.transmit s.cfg.devAddr [p.eval s] 100] }
      ∧ (r ≠ .fail false → d.ptr = p.eval s ∧ d.conf = s.dev.conf ∧ d.conv = s.dev.conv ∧ d.inFlight = s.dev.inFlight
          ∧ d.convDefined = s.dev.convDefined ∧ (d.readEarly = true ↔ s.dev.inFlight ≠ none))
      ∧ (r = .fail false → d = s.dev)

/-- 43_calibration.md R76, its example: the configuration word of the charger current under the two documented settings.
The words rest on the presumed field codes of this hardware (log entry 4). -/
def Obligations.CfgChgiWordsOfTheTwoSettings : Prop :=
  ∀ s : State,
    (s.cfg = hardwareConfig.v16 → exec .cfgChgi s = .next (s.setOut ⟨0x8B83#16, 0#8, 1#1, 0#3⟩))
    ∧ (s.cfg = hardwareConfig.v2n → exec .cfgChgi s = .next (s.setOut ⟨0x8583#16, 0#8, 1#1, 0#3⟩))

/-- 70_reset_and_hazards.md R111, 20_memory.md R30: the wait must come before the START of the read, the pointer frame.
A read whose pointer frame reached the device while a conversion was in progress delivers a free value, however long
the host waits between the pointer frame and the receive. The model's choice:
the field that keeps this (log entry 32); that the conversion has ended after `CONV_DELAY` (log entry 14), also where R111
gives no such end (log entries 15, 31). That the receive leaves the device as it was is an assumption (R31; log entry
22, unsafe). -/
def Obligations.ReadStartedBeforeTheDelayIsFree : Prop :=
  ∀ (s : State) (t waited : Nat) (v : Word) (rest : List HostStep) (r : BusReply) (sc : List BusReply),
    s.cfg.wf = true → s.handle = true → s.dev.inFlight = some (v, waited) → r ≠ .fail false →
    s.todo = .tx (.pointer (.lit 0x00#8)) :: .wait t :: .rx :: rest → s.script = r :: .ok :: sc →
    ∃ (n : Nat) (u : State), run 3 s = .next u ∧ u.todo = rest
      ∧ u.rxBuf = [(Config.freeRead n).extractLsb' 8 8, (Config.freeRead n).extractLsb' 0 8]
      ∧ (s.cfg.convDelay ≤ waited + t → u.dev.inFlight = none)

/-- 70_reset_and_hazards.md R111, 10_state.md R23 (a), (b): when the host has waited `CONV_DELAY` and then starts the
read, the receive delivers the result of the conversion, if it is one that the spec describes (log entries 15, 31).
The model's
choice: that the result is the next of the list `adc` (log entry 13); the time counted (log entry 14); the field
`readEarly` (log entry 32). That the receive leaves the device as it was, the result still in the conversion register, is
an assumption (R31; log entry 22, unsafe). -/
def Obligations.ReadStartedAfterTheDelayIsTheResult : Prop :=
  ∀ (s : State) (t waited : Nat) (v x : Word) (rest : List HostStep) (ad : List Word) (sc : List BusReply),
    s.cfg.wf = true → s.handle = true → s.dev.inFlight = some (v, waited) → s.dev.convDefined = true →
    s.cfg.convDelay ≤ waited + t → s.adc = x :: ad →
    s.todo = .wait t :: .tx (.pointer (.lit 0x00#8)) :: .rx :: rest → s.script = .ok :: .ok :: sc →
    ∃ u : State, run 3 s = .next u ∧ u.todo = rest ∧ u.rxBuf = [x.extractLsb' 8 8, x.extractLsb' 0 8]
      ∧ u.dev = { s.dev with conv := x, inFlight := none, ptr := 0x00#8, readEarly := false }
end

