-- ==== Sys2Proof/Laws/Bits.lean ====
section
/-! SUPPORT. The bit-field facts behind the operand table (spec 30_encoding.md R42) and the shift and sign-extension of
42_result_align_sext.md R69, R70. -/

namespace Sys2Proof

/-- A value whose upper bits are zero is its lower field, zero-extended. -/
theorem setWidth_lowField (n m : Nat) (h : n + m = 16) (a : Word) (hz : a.extractLsb' n m = 0#m) :
    (a.extractLsb' 0 n).setWidth 16 = a := by
  apply BitVec.eq_of_getLsbD_eq
  intro i hi
  simp only [BitVec.getLsbD_extractLsb', BitVec.getLsbD_setWidth, hi]
  by_cases hn : i < n
  · simp [hn]
  · have e := congrArg (·.getLsbD (i - n)) hz
    simp [show n + (i - n) = i by omega, show i - n < m by omega] at e
    simp [hn, e]

theorem gainField_high (g : BitVec 3) : (g.setWidth 16).extractLsb' 3 13 = 0#13 := by revert g; decide

theorem gainField_low (g : BitVec 3) : (g.setWidth 16).extractLsb' 0 3 = g := by revert g; decide

theorem byteField_high (x : Byte) : (x.setWidth 16).extractLsb' 8 8 = 0#8 := by revert x; decide

theorem byteField_low (x : Byte) : (x.setWidth 16).extractLsb' 0 8 = x := by revert x; decide

theorem codeField_high (r : BitVec 12) : (r.setWidth 16).extractLsb' 12 4 = 0#4 := by
  apply BitVec.eq_of_getLsbD_eq
  intro i hi
  simp [BitVec.getLsbD_extractLsb', BitVec.getLsbD_setWidth]

theorem codeField_low (r : BitVec 12) : (r.setWidth 16).extractLsb' 0 12 = r := by
  apply BitVec.eq_of_getLsbD_eq
  intro i hi
  simp [BitVec.getLsbD_setWidth, hi]
  intro
  omega

/-- A mask of the upper bits finds the upper field zero. -/
theorem and_highMask (n m : Nat) (h : n + m = 16) (k : Word) (hk : ∀ i < 16, k.getLsbD i = decide (n ≤ i)) (a : Word) :
    a &&& k = 0#16 ↔ a.extractLsb' n m = 0#m := by
  constructor
  · intro e
    apply BitVec.eq_of_getLsbD_eq
    intro i hi
    have e' := congrArg (·.getLsbD (n + i)) e
    simp only [BitVec.getLsbD_and, hk (n + i) (by omega)] at e'
    simp [hi]
    simpa using e'
  · intro e
    apply BitVec.eq_of_getLsbD_eq
    intro i hi
    rw [BitVec.getLsbD_and, hk i hi]
    by_cases hn : i < n
    · simp [hn]
    · have e' := congrArg (·.getLsbD (i - n)) e
      simp [show n + (i - n) = i by omega, show i - n < m by omega] at e'
      simp [e']

theorem and_FF00 (a : Word) : a &&& 0xFF00#16 = 0#16 ↔ a.extractLsb' 8 8 = 0#8 :=
  and_highMask 8 8 rfl _ (by decide) a

theorem and_FFF8 (a : Word) : a &&& 0xFFF8#16 = 0#16 ↔ a.extractLsb' 3 13 = 0#13 :=
  and_highMask 3 13 rfl _ (by decide) a

theorem and_F000 (a : Word) : a &&& 0xF000#16 = 0#16 ↔ a.extractLsb' 12 4 = 0#4 :=
  and_highMask 12 4 rfl _ (by decide) a

/-- The lower 12 bits as a number. -/
theorem toNat_low12 (v : Word) : (v.extractLsb' 0 12).toNat = v.toNat % 4096 := by
  simp [BitVec.extractLsb'_toNat]

/-- Setting the top four bits is putting four ones before the lower twelve. -/
theorem or_F000 (v : Word) : v ||| 0xF000#16 = 0xF#4 ++ v.extractLsb' 0 12 := by
  apply BitVec.eq_of_getLsbD_eq
  intro i hi
  have hk : ∀ i < 16, (0xF000#16).getLsbD i = decide (12 ≤ i) := by decide
  have hl : ∀ i < 4, (0xF#4).getLsbD i = true := by decide
  rw [BitVec.getLsbD_append, BitVec.getLsbD_or, hk i hi]
  by_cases h : i < 12
  · simp [h]
  · simp [h, hl (i - 12) (by omega)]
    right
    omega

theorem toNat_ones_append (l : BitVec 12) : (0xF#4 ++ l : BitVec 16).toNat = 61440 + l.toNat := by
  have h : (0xF#4 ++ l : BitVec (4 + 12)).toNat = 15 <<< 12 ||| l.toNat := BitVec.toNat_append ..
  show (0xF#4 ++ l : BitVec (4 + 12)).toNat = _
  rw [h, ← Nat.shiftLeft_add_eq_or_of_lt l.isLt]
  rfl

namespace Machine

/-- What SEXT12 puts on `y`. -/
theorem sext12_y (v : Word) : (sext12 v).y = if 0x07FF < v.toNat then 0xF#4 ++ v.extractLsb' 0 12 else v := by
  simp only [sext12, Result.done, or_F000]

end Machine

end Sys2Proof
end

