-- ==== Sys2Proof/Laws/State.lean ====
section
/-! SUPPORT. What each shared update of State does to each field, one lemma a field, true by rfl. -/

namespace Sys2Proof.Machine

@[simp] theorem State.setOut_cfg (s : State) (r : Result) : (s.setOut r).cfg = s.cfg := rfl
@[simp] theorem State.setOut_op (s : State) (r : Result) : (s.setOut r).op = s.op := rfl
@[simp] theorem State.setOut_b (s : State) (r : Result) : (s.setOut r).b = s.b := rfl
@[simp] theorem State.setOut_a (s : State) (r : Result) : (s.setOut r).a = s.a := rfl
@[simp] theorem State.setOut_out (s : State) (r : Result) : (s.setOut r).out = r := rfl
@[simp] theorem State.setOut_todo (s : State) (r : Result) : (s.setOut r).todo = s.todo := rfl
@[simp] theorem State.setOut_rxBuf (s : State) (r : Result) : (s.setOut r).rxBuf = s.rxBuf := rfl
@[simp] theorem State.setOut_busOk (s : State) (r : Result) : (s.setOut r).busOk = s.busOk := rfl
@[simp] theorem State.setOut_ret (s : State) (r : Result) : (s.setOut r).ret = s.ret := rfl
@[simp] theorem State.setOut_handle (s : State) (r : Result) : (s.setOut r).handle = s.handle := rfl
@[simp] theorem State.setOut_log (s : State) (r : Result) : (s.setOut r).log = s.log := rfl
@[simp] theorem State.setOut_dev (s : State) (r : Result) : (s.setOut r).dev = s.dev := rfl
@[simp] theorem State.setOut_script (s : State) (r : Result) : (s.setOut r).script = s.script := rfl
@[simp] theorem State.setOut_adc (s : State) (r : Result) : (s.setOut r).adc = s.adc := rfl
@[simp] theorem State.setOut_fresh (s : State) (r : Result) : (s.setOut r).fresh = s.fresh := rfl

@[simp] theorem State.setIn_cfg (s : State) (p q : Byte) (v : Word) : (s.setIn p q v).cfg = s.cfg := rfl
@[simp] theorem State.setIn_op (s : State) (p q : Byte) (v : Word) : (s.setIn p q v).op = p := rfl
@[simp] theorem State.setIn_b (s : State) (p q : Byte) (v : Word) : (s.setIn p q v).b = q := rfl
@[simp] theorem State.setIn_a (s : State) (p q : Byte) (v : Word) : (s.setIn p q v).a = v := rfl
@[simp] theorem State.setIn_out (s : State) (p q : Byte) (v : Word) : (s.setIn p q v).out = s.out := rfl
@[simp] theorem State.setIn_todo (s : State) (p q : Byte) (v : Word) : (s.setIn p q v).todo = s.todo := rfl
@[simp] theorem State.setIn_rxBuf (s : State) (p q : Byte) (v : Word) : (s.setIn p q v).rxBuf = s.rxBuf := rfl
@[simp] theorem State.setIn_busOk (s : State) (p q : Byte) (v : Word) : (s.setIn p q v).busOk = s.busOk := rfl
@[simp] theorem State.setIn_ret (s : State) (p q : Byte) (v : Word) : (s.setIn p q v).ret = s.ret := rfl
@[simp] theorem State.setIn_handle (s : State) (p q : Byte) (v : Word) : (s.setIn p q v).handle = s.handle := rfl
@[simp] theorem State.setIn_log (s : State) (p q : Byte) (v : Word) : (s.setIn p q v).log = s.log := rfl
@[simp] theorem State.setIn_dev (s : State) (p q : Byte) (v : Word) : (s.setIn p q v).dev = s.dev := rfl
@[simp] theorem State.setIn_script (s : State) (p q : Byte) (v : Word) : (s.setIn p q v).script = s.script := rfl
@[simp] theorem State.setIn_adc (s : State) (p q : Byte) (v : Word) : (s.setIn p q v).adc = s.adc := rfl
@[simp] theorem State.setIn_fresh (s : State) (p q : Byte) (v : Word) : (s.setIn p q v).fresh = s.fresh := rfl

@[simp] theorem State.returns_cfg (s : State) (v : Word) (k : BitVec 3) : (s.returns v k).cfg = s.cfg := rfl
@[simp] theorem State.returns_op (s : State) (v : Word) (k : BitVec 3) : (s.returns v k).op = s.op := rfl
@[simp] theorem State.returns_b (s : State) (v : Word) (k : BitVec 3) : (s.returns v k).b = s.b := rfl
@[simp] theorem State.returns_a (s : State) (v : Word) (k : BitVec 3) : (s.returns v k).a = s.a := rfl
@[simp] theorem State.returns_out (s : State) (v : Word) (k : BitVec 3) : (s.returns v k).out = s.out := rfl
@[simp] theorem State.returns_todo (s : State) (v : Word) (k : BitVec 3) : (s.returns v k).todo = afterReturn s.todo := rfl
@[simp] theorem State.returns_rxBuf (s : State) (v : Word) (k : BitVec 3) : (s.returns v k).rxBuf = s.rxBuf := rfl
@[simp] theorem State.returns_busOk (s : State) (v : Word) (k : BitVec 3) : (s.returns v k).busOk = s.busOk := rfl
@[simp] theorem State.returns_ret (s : State) (v : Word) (k : BitVec 3) : (s.returns v k).ret = ⟨v, k⟩ := rfl
@[simp] theorem State.returns_handle (s : State) (v : Word) (k : BitVec 3) : (s.returns v k).handle = s.handle := rfl
@[simp] theorem State.returns_log (s : State) (v : Word) (k : BitVec 3) : (s.returns v k).log = s.log := rfl
@[simp] theorem State.returns_dev (s : State) (v : Word) (k : BitVec 3) : (s.returns v k).dev = s.dev := rfl
@[simp] theorem State.returns_script (s : State) (v : Word) (k : BitVec 3) : (s.returns v k).script = s.script := rfl
@[simp] theorem State.returns_adc (s : State) (v : Word) (k : BitVec 3) : (s.returns v k).adc = s.adc := rfl
@[simp] theorem State.returns_fresh (s : State) (v : Word) (k : BitVec 3) : (s.returns v k).fresh = s.fresh := rfl

@[simp] theorem State.returnsError_cfg (s : State) (k : BitVec 3) : (s.returnsError k).cfg = s.cfg := rfl
@[simp] theorem State.returnsError_op (s : State) (k : BitVec 3) : (s.returnsError k).op = s.op := rfl
@[simp] theorem State.returnsError_b (s : State) (k : BitVec 3) : (s.returnsError k).b = s.b := rfl
@[simp] theorem State.returnsError_a (s : State) (k : BitVec 3) : (s.returnsError k).a = s.a := rfl
@[simp] theorem State.returnsError_out (s : State) (k : BitVec 3) : (s.returnsError k).out = s.out := rfl
@[simp] theorem State.returnsError_todo (s : State) (k : BitVec 3) : (s.returnsError k).todo = afterReturn s.todo := rfl
@[simp] theorem State.returnsError_rxBuf (s : State) (k : BitVec 3) : (s.returnsError k).rxBuf = s.rxBuf := rfl
@[simp] theorem State.returnsError_busOk (s : State) (k : BitVec 3) : (s.returnsError k).busOk = s.busOk := rfl
@[simp] theorem State.returnsError_ret (s : State) (k : BitVec 3) : (s.returnsError k).ret = ⟨0#16, k⟩ := rfl
@[simp] theorem State.returnsError_handle (s : State) (k : BitVec 3) : (s.returnsError k).handle = s.handle := rfl
@[simp] theorem State.returnsError_log (s : State) (k : BitVec 3) : (s.returnsError k).log = s.log := rfl
@[simp] theorem State.returnsError_dev (s : State) (k : BitVec 3) : (s.returnsError k).dev = s.dev := rfl
@[simp] theorem State.returnsError_script (s : State) (k : BitVec 3) : (s.returnsError k).script = s.script := rfl
@[simp] theorem State.returnsError_adc (s : State) (k : BitVec 3) : (s.returnsError k).adc = s.adc := rfl
@[simp] theorem State.returnsError_fresh (s : State) (k : BitVec 3) : (s.returnsError k).fresh = s.fresh := rfl

@[simp] theorem State.setOut_setOut (s : State) (r r' : Result) : (s.setOut r).setOut r' = s.setOut r' := rfl

@[simp] theorem afterReturn_nil : afterReturn [] = [] := rfl

@[simp] theorem afterReturn_seqEnd (rest : List HostStep) : afterReturn (.seqEnd :: rest) = rest := rfl

/-- A `RETURN` passes over the steps of the running sequence. -/
theorem afterReturn_append (body rest : List HostStep) (h : .seqEnd ∉ body) :
    afterReturn (body ++ .seqEnd :: rest) = rest := by
  induction body with
  | nil => rfl
  | cons x body ih =>
    have hx : x ≠ .seqEnd := fun e => h (by simp [e])
    have hb : .seqEnd ∉ body := fun m => h (List.mem_cons_of_mem _ m)
    cases x <;> first | exact absurd rfl hx | simpa [afterReturn] using ih hb

/-- The steps of a sequence hold no end mark of their own, so a `RETURN` in them leaves exactly that sequence. -/
theorem seqEnd_not_mem_expand (c : Config) (q : HostSequence) : .seqEnd ∉ expand c q := by
  cases q with
  | sample signed => cases signed <;> simp [expand, sampleSteps, stepOf]
  | _ => simp [expand, writeRegSteps, readRegSteps, encodedSampleSteps, measureSteps, stepOf]

end Sys2Proof.Machine
end

