-- ==== Sys2Proof/Laws/Bus.lean ====
section
/-! SUPPORT. Everything a transport call and a wait can do (spec 20_memory.md R26, R27, R34; 70_reset_and_hazards.md
R111). -/

namespace Sys2Proof.Machine

/-- A transmit that answers a next state made one call, used up one answer, and left the device as it was or with the
frame taken. -/
theorem transmit_next {f : Frame} {s t : State} (h : transmit f s = .next t) :
    s.handle = true ∧ ∃ d : Device,
      t = { s with
        log := s.log ++ [.transmit s.cfg.devAddr (f.bytes s) s.cfg.busTimeoutMs]
        busOk := replyOk (nextReply s), script := s.script.tail, fresh := s.fresh + 1, dev := d }
      ∧ (replyReaches (nextReply s) = true → s.dev.takeFrame s.cfg (f.bytes s) = some d)
      ∧ (replyReaches (nextReply s) = false → d = s.dev) := by
  unfold transmit at h
  split at h
  · rename_i hh
    refine ⟨hh, ?_⟩
    dsimp only at h
    split at h
    · rename_i hr
      split at h
      · rename_i d hd
        cases h
        exact ⟨d, rfl, fun _ => hd, fun hn => by simp [hr] at hn⟩
      · cases h
    · rename_i hr
      cases h
      exact ⟨s.dev, rfl, fun hn => absurd hn hr, fun _ => rfl⟩
  · cases h

/-- A receive that answers a next state made one call, used up one answer and changed nothing in the device; the bytes
are those of a readable register or of the transport, or none when the call failed. -/
theorem receive_next {s t : State} (h : receive s = .next t) :
    s.handle = true ∧ ∃ bs : List Byte,
      t = { s with
        log := s.log ++ [.receive s.cfg.devAddr 2 s.cfg.busTimeoutMs]
        busOk := replyOk (nextReply s), script := s.script.tail, fresh := s.fresh + 1, rxBuf := bs }
      ∧ (replyOk (nextReply s) = true → ∃ v, s.dev.read s.fresh = some v ∧ bs = receivedBytes v (nextReply s))
      ∧ (replyOk (nextReply s) = false → bs = []) := by
  unfold receive at h
  split at h
  · rename_i hh
    refine ⟨hh, ?_⟩
    dsimp only at h
    split at h
    · rename_i hr
      split at h
      · rename_i v hv
        cases h
        exact ⟨_, rfl, fun _ => ⟨v, hv, rfl⟩, fun hn => by simp [hr] at hn⟩
      · cases h
    · rename_i hr
      cases h
      exact ⟨_, rfl, fun hn => absurd hn hr, fun _ => rfl⟩
  · cases h

/-- A wait changes the conversion, and takes a result only when it ends. -/
theorem waitFor_cases (t : Nat) (s : State) :
    (s.dev.inFlight = none ∧ waitFor t s = s)
    ∨ ∃ v waited, s.dev.inFlight = some (v, waited)
      ∧ ((s.cfg.convDelay ≤ waited + t ∧ ∃ r, waitFor t s = { s with
            dev := { s.dev with conv := r, inFlight := none }, adc := s.adc.tail, fresh := s.fresh + 1 })
        ∨ (waited + t < s.cfg.convDelay
            ∧ waitFor t s = { s with dev := { s.dev with inFlight := some (v, waited + t) } })) := by
  unfold waitFor
  split
  · exact .inl ⟨by assumption, rfl⟩
  · rename_i v waited hv
    refine .inr ⟨v, waited, hv, ?_⟩
    split
    · exact .inl ⟨by assumption, _, rfl⟩
    · exact .inr ⟨by omega, rfl⟩

/-- The device takes a pointer frame for one of its two registers. -/
theorem takeFrame_pointer {c : Config} {d : Device} {p : Byte} (h : p = convPtr ∨ p = confPtr) :
    d.takeFrame c [p] = some (d.point p) := by
  simp [Device.takeFrame, h]

/-- The device takes a write frame for its configuration register. -/
theorem takeFrame_write (c : Config) (d : Device) (hi lo : Byte) :
    d.takeFrame c [confPtr, hi, lo] = some (d.writeConf c (hi ++ lo)) := by
  simp [Device.takeFrame]

/-- What a configuration write does to each part of the device. -/
@[simp] theorem Device.writeConf_conf (c : Config) (d : Device) (v : Word) : (d.writeConf c v).conf = v := rfl
@[simp] theorem Device.writeConf_conv (c : Config) (d : Device) (v : Word) : (d.writeConf c v).conv = d.conv := rfl
@[simp] theorem Device.writeConf_ptr (c : Config) (d : Device) (v : Word) : (d.writeConf c v).ptr = confPtr := rfl
@[simp] theorem Device.writeConf_inFlight (c : Config) (d : Device) (v : Word) :
    (d.writeConf c v).inFlight = if fOs v = 1#1 then some (v, 0) else d.inFlight := rfl
@[simp] theorem Device.writeConf_convDefined (c : Config) (d : Device) (v : Word) :
    (d.writeConf c v).convDefined = d.definedAfterWrite c v := rfl
@[simp] theorem Device.writeConf_readEarly (c : Config) (d : Device) (v : Word) : (d.writeConf c v).readEarly = false := rfl

/-- What a pointer frame does to each part of the device. -/
@[simp] theorem Device.point_conf (d : Device) (p : Byte) : (d.point p).conf = d.conf := rfl
@[simp] theorem Device.point_conv (d : Device) (p : Byte) : (d.point p).conv = d.conv := rfl
@[simp] theorem Device.point_ptr (d : Device) (p : Byte) : (d.point p).ptr = p := rfl
@[simp] theorem Device.point_inFlight (d : Device) (p : Byte) : (d.point p).inFlight = d.inFlight := rfl
@[simp] theorem Device.point_convDefined (d : Device) (p : Byte) : (d.point p).convDefined = d.convDefined := rfl
@[simp] theorem Device.point_readEarly (d : Device) (p : Byte) : (d.point p).readEarly = d.inFlight.isSome := rfl

/-- Whether the conversion register is defined after a write that starts a conversion. -/
theorem Device.definedAfterWrite_start {c : Config} {d : Device} {v : Word} (h : fOs v = 1#1) :
    d.definedAfterWrite c v = c.describedConversion v := if_pos h

/-- Whether it is after a write that starts none. -/
theorem Device.definedAfterWrite_keep {c : Config} {d : Device} {v : Word} (h : fOs v ≠ 1#1) :
    d.definedAfterWrite c v = true ↔ d.convDefined = true ∧ d.inFlight = none ∧ fMode v = c.modeSingle := by
  simp [Device.definedAfterWrite, h, and_assoc]

/-- What a settled conversion register is. -/
theorem Device.settled_iff (d : Device) :
    d.settled = true ↔ d.inFlight = none ∧ d.readEarly = false ∧ d.convDefined = true := by
  simp [Device.settled, and_assoc]

/-- A frame reaches the device with every answer but one. -/
theorem replyReaches_iff (r : BusReply) : replyReaches r = true ↔ r ≠ .fail false := by
  cases r with
  | fail reached => cases reached <;> simp [replyReaches]
  | _ => simp [replyReaches]

/-- A transmit of a frame that the device takes, whatever the answer. -/
theorem transmit_of_takeFrame {f : Frame} {s : State} {d : Device} (hh : s.handle = true)
    (hd : s.dev.takeFrame s.cfg (f.bytes s) = some d) :
    transmit f s = .next { s with
      log := s.log ++ [.transmit s.cfg.devAddr (f.bytes s) s.cfg.busTimeoutMs]
      busOk := replyOk (nextReply s), script := s.script.tail, fresh := s.fresh + 1
      dev := if replyReaches (nextReply s) then d else s.dev } := by
  simp only [transmit, hh, if_true, hd]
  cases replyReaches (nextReply s) <;> simp

/-- A settled conversion register reads as what it holds. -/
theorem Device.read_conv {d : Device} (hp : d.ptr = convPtr) (hs : d.settled = true) (n : Nat) : d.read n = some d.conv := by
  simp [Device.read, hp, hs]

/-- An unsettled one reads as a free value. -/
theorem Device.read_conv_unsettled {d : Device} (hp : d.ptr = convPtr) (hs : d.settled = false) (n : Nat) :
    d.read n = some (Config.freeRead n) := by
  simp [Device.read, hp, hs]

/-- Of the configuration register every bit but 15 reads as written. -/
theorem Device.read_conf {d : Device} (hp : d.ptr = confPtr) (n : Nat) :
    d.read n = some (Config.freeStatusBit n ++ d.conf.extractLsb' 0 15) := by
  simp [Device.read, hp, convPtr, confPtr]

/-- A pointer outside the map has nothing to read. -/
theorem Device.read_eq_none {d : Device} (h0 : d.ptr ≠ convPtr) (h1 : d.ptr ≠ confPtr) (n : Nat) : d.read n = none := by
  simp [Device.read, h0, h1]

end Sys2Proof.Machine
end

