-- ==== Sys2Proof/Laws/Decode.lean ====
section
/-! SUPPORT. The command word and its fields (spec 30_encoding.md R41), the operation map (R54), and what a decoded
word is, said once. -/

namespace Sys2Proof

@[simp] theorem cwOp_cw (op b : Byte) (a : Word) : cwOp (cw op b a) = op := by
  ext i hi; simp only [cwOp, cw, BitVec.getElem_extractLsb', BitVec.getLsbD_append]
  simp [show ¬ 24 + i < 16 by omega, show ¬ 24 + i - 16 < 8 by omega, show 24 + i - 16 - 8 = i by omega, hi]

@[simp] theorem cwB_cw (op b : Byte) (a : Word) : cwB (cw op b a) = b := by
  ext i hi; simp only [cwB, cw, BitVec.getElem_extractLsb', BitVec.getLsbD_append]
  simp [show ¬ 16 + i < 16 by omega, hi]

@[simp] theorem cwA_cw (op b : Byte) (a : Word) : cwA (cw op b a) = a := by
  ext i hi; simp only [cwA, cw, BitVec.getElem_extractLsb', BitVec.getLsbD_append]
  simp [hi]

/-- A command word is made of its three fields. -/
theorem cw_fields (w : BitVec 32) : cw (cwOp w) (cwB w) (cwA w) = w := by
  apply BitVec.eq_of_getLsbD_eq
  intro i hi
  simp only [cwOp, cwB, cwA, cw, BitVec.getLsbD_append, BitVec.getLsbD_extractLsb']
  split
  · simp_all
  · split
    · simp_all [show 16 + (i - 16) = i by omega]
    · simp_all [show 24 + (i - 16 - 8) = i by omega, show i - 16 - 8 < 8 by omega]

/-- Two command words agree when their fields do. -/
theorem cw_inj {op b op' b' : Byte} {a a' : Word} (h : cw op b a = cw op' b' a') : op = op' ∧ b = b' ∧ a = a' := by
  refine ⟨?_, ?_, ?_⟩
  · simpa using congrArg cwOp h
  · simpa using congrArg cwB h
  · simpa using congrArg cwA h

/-- A mask acts on each field alone. -/
theorem cw_and (op b op' b' : Byte) (a a' : Word) : cw op b a &&& cw op' b' a' = cw (op &&& op') (b &&& b') (a &&& a') := by
  apply BitVec.eq_of_getLsbD_eq
  intro i hi
  simp only [cw, BitVec.getLsbD_append, BitVec.getLsbD_and]
  split
  · rfl
  · split <;> rfl

/-- The host's numeral for a command word. -/
@[simp] theorem ofNat_toNat_mod (w : BitVec 32) : BitVec.ofNat 32 (w.toNat % 2 ^ 32) = w := by
  rw [Nat.mod_eq_of_lt w.isLt, BitVec.ofNat_toNat, BitVec.setWidth_eq]

@[simp] theorem opcodeOf_code (o : Opcode) : opcodeOf o.code = some o := by cases o <;> rfl

/-- An `op` value that selects an operation is that operation's number (R54). -/
theorem code_of_opcodeOf {x : Byte} {o : Opcode} (h : opcodeOf x = some o) : o.code = x := by
  simpa using List.find?_some h

/-- The reserved `op` values are those above 0x0E (R55 (a)). -/
theorem opcodeOf_eq_none_iff (x : Byte) : opcodeOf x = none ↔ 0x0E < x.toNat := by
  revert x; decide

/-- Everything a decoded word can be: the operation and the operands its row allows, and the must-be-zero fields zero. -/
theorem decode_ok_cases {op b : Byte} {a : Word} {i : Instr} (h : decode (cw op b a) = .ok i) :
    (op = 0x00#8 ∧ i = .frameWr b a)
    ∨ (op = 0x01#8 ∧ a = 0#16 ∧ i = .frameRd b)
    ∨ (op = 0x02#8 ∧ a.extractLsb' 8 8 = 0#8 ∧ i = .compose b (a.extractLsb' 0 8))
    ∨ (op = 0x03#8 ∧ a.extractLsb' 3 13 = 0#13 ∧ i = .encSe b (a.extractLsb' 0 3))
    ∨ (op = 0x04#8 ∧ b = 0#8 ∧ a.extractLsb' 3 13 = 0#13 ∧ i = .encD01 (a.extractLsb' 0 3))
    ∨ (op = 0x05#8 ∧ b = 0#8 ∧ a.extractLsb' 3 13 = 0#13 ∧ i = .encD23 (a.extractLsb' 0 3))
    ∨ (op = 0x06#8 ∧ b = 0#8 ∧ i = .dec a)
    ∨ (op = 0x07#8 ∧ b = 0#8 ∧ i = .align12 a)
    ∨ (op = 0x08#8 ∧ b = 0#8 ∧ i = .sext12 a)
    ∨ (op = 0x09#8 ∧ b = 0#8 ∧ a = 0#16 ∧ i = .cfgPack)
    ∨ (op = 0x0A#8 ∧ b = 0#8 ∧ a = 0#16 ∧ i = .cfgChgv)
    ∨ (op = 0x0B#8 ∧ b = 0#8 ∧ a = 0#16 ∧ i = .cfgChgi)
    ∨ (op = 0x0C#8 ∧ b = 0#8 ∧ a.extractLsb' 12 4 = 0#4 ∧ i = .scalePack (a.extractLsb' 0 12))
    ∨ (op = 0x0D#8 ∧ b = 0#8 ∧ a.extractLsb' 12 4 = 0#4 ∧ i = .scaleChgv (a.extractLsb' 0 12))
    ∨ (op = 0x0E#8 ∧ b = 0#8 ∧ i = .scaleChgi a) := by
  unfold decode at h
  simp only [cwOp_cw, cwB_cw, cwA_cw] at h
  split at h
  · cases h
  · rename_i o ho
    have hc := code_of_opcodeOf ho
    subst hc
    cases o <;> simp only [Opcode.code] at * <;>
      first
        | (cases h; simp)
        | (split at h <;> first | (cases h; done) | (rename_i hz; cases h; simp_all))

end Sys2Proof
end

