-- ==== Sys2Proof/Laws/Ops.lean ====
section
/-! SUPPORT. Each shared operation's lemma: everything it can do, said once. -/

namespace Sys2Proof.Machine

/-- A completed operation answers the state with the new outputs. -/
@[simp] theorem complete_eq (r : Result) (s : State) : complete r s = .next (s.setOut r) := rfl

/-- An error is the error result on the outputs and nothing else (R99). -/
@[simp] theorem raiseError_eq (k : ErrorKind) (s : State) :
    raiseError k s = .next (s.setOut ⟨0#16, 0#8, 0#1, k.code⟩) := rfl

/-- Presenting a word that decodes is performing its instruction. -/
theorem present_ok {op b : Byte} {a : Word} {i : Instr} (h : decode (cw op b a) = .ok i) (s : State) :
    present op b a s = exec i (s.setIn op b a) := by
  simp [present, h]

/-- Presenting a word that does not decode is the error result with `st` = 4. -/
theorem present_error {op b : Byte} {a : Word} {e : DecodeError} (h : decode (cw op b a) = .error e) (s : State) :
    present op b a s = .next ((s.setIn op b a).setOut ⟨0#16, 0#8, 0#1, 4#3⟩) := by
  simp [present, h, ErrorKind.code]

/-- An instruction answers a next state that differs from the old one in the output ports at most. -/
theorem exec_writes_out (i : Instr) (s : State) : ∃ r, exec i s = .next (s.setOut r) := by
  cases i <;> exact ⟨_, rfl⟩

/-- Presenting a command word answers a next state that differs in the ports at most. -/
theorem present_writes_ports (op b : Byte) (a : Word) (s : State) :
    ∃ r, present op b a s = .next ((s.setIn op b a).setOut r) := by
  unfold present
  split
  · exact exec_writes_out _ _
  · exact ⟨_, rfl⟩

/-- Under a well-formed `Config` a step is the next host step. -/
theorem step_cons {s : State} {h : HostStep} {rest : List HostStep} (hc : s.cfg.wf = true) (ht : s.todo = h :: rest) :
    step s = hostStep h { s with todo := rest } := by
  simp [step, hc, hostNext, ht]

/-- The step of a placed command word presents it. -/
theorem step_withFetchWord {s : State} (hc : s.cfg.wf = true) (w : BitVec 32) :
    step (s.withFetchWord 32 w.toNat) = present (cwOp w) (cwB w) (cwA w) s := by
  have ht : (s.withFetchWord 32 w.toNat).todo = wordStep w :: s.todo := by
    simp only [State.withFetchWord, ofNat_toNat_mod]
  exact step_cons (s := s.withFetchWord 32 w.toNat) hc ht

/-- The result of an unsigned code: legal exactly up to 4095 (R77, R78). -/
theorem rawUnsigned_eq (a : Word) : rawUnsigned a = if a.toNat ≤ 4095 then some a.toNat else none := rfl

/-- A legal gain index is found (R43). -/
theorem gainIndex_ofNat (g : Fin 6) : gainIndex (BitVec.ofNat 16 g.val) = some g := by
  revert g; decide

/-- A reserved gain index is not (R43). -/
theorem gainIndex_eq_none {a : Word} (h : 5 < a.toNat) : gainIndex a = none := by
  simp [gainIndex]; omega

/-- A legal channel number is found (R64). -/
theorem channelNumber_ofNat (ch : Fin 4) : channelNumber (BitVec.ofNat 8 ch.val) = some ch := by
  revert ch; decide

/-- An invalid channel number is not (R64). -/
theorem channelNumber_eq_none {b : Byte} (h : 3 < b.toNat) : channelNumber b = none := by
  simp [channelNumber]; omega

end Sys2Proof.Machine
end

