-- ==== Sys2Proof/Laws/Params.lean ====
section
/-! SUPPORT. The fields of an assembled configuration value (spec 41_config_codec.md R63) and what a well-formed `Config`
gives (30_encoding.md R50, 43_calibration.md R80). -/

namespace Sys2Proof

/-- A byte pair put together and taken apart (R28). -/
theorem append_extract_bytes (v : Word) : (v.extractLsb' 8 8 ++ v.extractLsb' 0 8 : BitVec 16) = v := by
  apply BitVec.eq_of_getLsbD_eq
  intro i hi
  simp only [BitVec.getLsbD_append, BitVec.getLsbD_extractLsb']
  split
  · simp_all
  · simp_all [show 8 + (i - 8) = i by omega, show i - 8 < 8 by omega]

@[simp] theorem extract_hi_append (h l : Byte) : (h ++ l : BitVec 16).extractLsb' 8 8 = h := by
  ext i hi; simp only [BitVec.getElem_extractLsb', BitVec.getLsbD_append]
  simp [show ¬ 8 + i < 8 by omega, hi]

@[simp] theorem extract_lo_append (h l : Byte) : (h ++ l : BitVec 16).extractLsb' 0 8 = l := by
  ext i hi; simp only [BitVec.getElem_extractLsb', BitVec.getLsbD_append]
  simp [hi]

theorem Selection.mem_all (t : Selection) : t ∈ Selection.all := by
  cases t with
  | se ch => revert ch; decide
  | d01 => decide
  | d23 => decide

theorem mem_gainIndices (g : Fin 6) : g ∈ gainIndices := by revert g; decide

/-- R50: a well-formed `Config` has different multiplexer codes for different selections. -/
theorem Config.mux_inj {c : Config} (h : c.wf = true) {t u : Selection} (e : c.mux t = c.mux u) : t = u := by
  have hn : (Selection.all.map c.mux).Nodup := by
    simp only [Config.wf, Config.codesWf, Bool.and_eq_true, decide_eq_true_eq] at h
    exact h.1.1.1
  exact List.inj_on_of_nodup_map hn (Selection.mem_all t) (Selection.mem_all u) e

/-- R50: a well-formed `Config` has different gain codes for different gain indices. -/
theorem Config.pga_inj {c : Config} (h : c.wf = true) {g k : Fin 6} (e : c.pga g = c.pga k) : g = k := by
  have hn : (gainIndices.map c.pga).Nodup := by
    simp only [Config.wf, Config.codesWf, Bool.and_eq_true, decide_eq_true_eq] at h
    exact h.1.1.2
  exact List.inj_on_of_nodup_map hn (mem_gainIndices g) (mem_gainIndices k) e

/-- R67: the decoder finds the selection whose code it is given. -/
theorem Config.selectionOf_mux {c : Config} (h : c.wf = true) (t : Selection) : c.selectionOf (c.mux t) = some t := by
  unfold Config.selectionOf
  obtain ⟨u, hu⟩ : ∃ u, Selection.all.find? (fun u => c.mux u == c.mux t) = some u := by
    rw [← Option.isSome_iff_exists, List.find?_isSome]
    exact ⟨t, Selection.mem_all t, by simp⟩
  have e : c.mux u = c.mux t := by simpa using List.find?_some hu
  rw [hu, Config.mux_inj h e]

/-- R67: the decoder finds the gain index whose code it is given. -/
theorem Config.gainOf_pga {c : Config} (h : c.wf = true) (g : Fin 6) : c.gainOf (c.pga g) = some g := by
  unfold Config.gainOf
  obtain ⟨k, hk⟩ : ∃ k, gainIndices.find? (fun k => c.pga k == c.pga g) = some k := by
    rw [← Option.isSome_iff_exists, List.find?_isSome]
    exact ⟨g, mem_gainIndices g, by simp⟩
  have e : c.pga k = c.pga g := by simpa using List.find?_some hk
  rw [hk, Config.pga_inj h e]

/-- R67: a code of no selection is not recognised. -/
theorem Config.selectionOf_eq_none {c : Config} {m : BitVec 3} (h : ∀ t, m ≠ c.mux t) : c.selectionOf m = none := by
  unfold Config.selectionOf
  rw [List.find?_eq_none]
  intro t _ e
  exact h t (by simpa using e : c.mux t = m).symm

/-- R67: a code of no gain index is not recognised. -/
theorem Config.gainOf_eq_none {c : Config} {p : BitVec 3} (h : ∀ g, p ≠ c.pga g) : c.gainOf p = none := by
  unfold Config.gainOf
  rw [List.find?_eq_none]
  intro g _ e
  exact h g (by simpa using e : c.pga g = p).symm

/-- Which words with `OS` = 1 ask for a conversion that the spec describes. -/
theorem Config.describedConversion_iff (c : Config) (v : Word) :
    c.describedConversion v = true ↔ fMode v = c.modeSingle ∧ fDr v = c.dr1600
      ∧ (∃ t : Selection, fMux v = c.mux t) ∧ ∃ g : Fin 6, fPga v = c.pga g := by
  simp only [Config.describedConversion, Bool.and_eq_true, decide_eq_true_eq, Config.selectionOf, Config.gainOf,
    List.find?_isSome]
  constructor
  · rintro ⟨⟨⟨hs, hd⟩, t, -, ht⟩, g, -, hg⟩
    exact ⟨hs, hd, ⟨t, (by simpa using ht : c.mux t = fMux v).symm⟩, ⟨g, (by simpa using hg : c.pga g = fPga v).symm⟩⟩
  · rintro ⟨hs, hd, ⟨t, ht⟩, g, hg⟩
    exact ⟨⟨⟨hs, hd⟩, t, Selection.mem_all t, by simp [ht]⟩, g, mem_gainIndices g, by simp [hg]⟩

end Sys2Proof
end

