-- ==== Sys2Proof/Laws/PerInstr.lean ====
section
/-! SUPPORT. Per-instruction family RowMask: the encoding of an instruction has the fixed bits of its row of
spec/opcode_table.json. -/

namespace Sys2Proof.Laws.RowMask

open Sys2Proof

/-- The encoding selects the instruction's row (spec INDEX.md: `w & mask = match`). -/
def Statement (i : Instr) : Prop := encode i &&& i.opcode.mask = i.opcode.pattern

/-- It is enough to look at the fields, each under its part of the mask. -/
theorem of_fields {i : Instr} (mb : Byte) (ma : Word) (hm : i.opcode.mask = cw 0xFF#8 mb ma)
    (hb : i.portB &&& mb = 0#8) (ha : i.portA &&& ma = 0#16) : Statement i := by
  have ho : i.opcode.code &&& 0xFF#8 = i.opcode.code := by generalize i.opcode = o; cases o <;> decide
  rw [Statement, encode, hm, cw_and, hb, ha, ho, Opcode.pattern]

/-- A 12-bit code leaves the top four bits zero. -/
theorem raw_and (r : BitVec 12) : r.setWidth 16 &&& 0xF000#16 = 0#16 := by
  apply BitVec.eq_of_getLsbD_eq
  intro k hk
  have hz : k < 12 → (0xF000#16).getLsbD k = false := by revert k; decide
  simp only [BitVec.getLsbD_and, BitVec.getLsbD_setWidth]
  by_cases h : k < 12
  · simp [hz h]
  · simp [BitVec.getLsbD_of_ge r k (by omega)]

theorem frameWr (p : Byte) (v : Word) : Statement (.frameWr p v) := of_fields 0#8 0#16 rfl (by simp) (by simp)
theorem frameRd (p : Byte) : Statement (.frameRd p) := of_fields 0#8 0xFFFF#16 rfl (by simp) (by simp [Instr.portA])
theorem compose (b0 b1 : Byte) : Statement (.compose b0 b1) :=
  of_fields 0#8 0xFF00#16 rfl (by simp) (by simp only [Instr.portA]; revert b1; decide)
theorem encSe (ch : Byte) (g : BitVec 3) : Statement (.encSe ch g) :=
  of_fields 0#8 0xFFF8#16 rfl (by simp) (by simp only [Instr.portA]; revert g; decide)
theorem encD01 (g : BitVec 3) : Statement (.encD01 g) :=
  of_fields 0xFF#8 0xFFF8#16 rfl (by simp [Instr.portB]) (by simp only [Instr.portA]; revert g; decide)
theorem encD23 (g : BitVec 3) : Statement (.encD23 g) :=
  of_fields 0xFF#8 0xFFF8#16 rfl (by simp [Instr.portB]) (by simp only [Instr.portA]; revert g; decide)
theorem dec (v : Word) : Statement (.dec v) := of_fields 0xFF#8 0#16 rfl (by simp [Instr.portB]) (by simp)
theorem align12 (v : Word) : Statement (.align12 v) := of_fields 0xFF#8 0#16 rfl (by simp [Instr.portB]) (by simp)
theorem sext12 (v : Word) : Statement (.sext12 v) := of_fields 0xFF#8 0#16 rfl (by simp [Instr.portB]) (by simp)
theorem cfgPack : Statement .cfgPack := of_fields 0xFF#8 0xFFFF#16 rfl rfl rfl
theorem cfgChgv : Statement .cfgChgv := of_fields 0xFF#8 0xFFFF#16 rfl rfl rfl
theorem cfgChgi : Statement .cfgChgi := of_fields 0xFF#8 0xFFFF#16 rfl rfl rfl
theorem scalePack (r : BitVec 12) : Statement (.scalePack r) :=
  of_fields 0xFF#8 0xF000#16 rfl (by simp [Instr.portB]) (raw_and r)
theorem scaleChgv (r : BitVec 12) : Statement (.scaleChgv r) :=
  of_fields 0xFF#8 0xF000#16 rfl (by simp [Instr.portB]) (raw_and r)
theorem scaleChgi (r : Word) : Statement (.scaleChgi r) := of_fields 0xFF#8 0#16 rfl (by simp [Instr.portB]) (by simp)

end Sys2Proof.Laws.RowMask
end

