-- ==== Sys2Proof/Laws/Run.lean ====
section
/-! SUPPORT. Running the machine a host step at a time. -/

namespace Sys2Proof.Machine

@[simp] theorem run_zero (s : State) : run 0 s = .next s := rfl

/-- A step that answers a next state, then the rest of the run. -/
theorem run_next {s t : State} (h : step s = .next t) (k : Nat) : run (k + 1) s = run k t := by
  simp [run, h]

/-- One host step of a run. -/
theorem run_cons {s t : State} {h : HostStep} {rest : List HostStep} (hc : s.cfg.wf = true) (ht : s.todo = h :: rest)
    (hs : hostStep h { s with todo := rest } = .next t) (k : Nat) : run (k + 1) s = run k t :=
  run_next (by rw [step_cons hc ht, hs]) k

/-- Two runs one after the other. -/
theorem run_add {j : Nat} : ∀ {s t : State}, run j s = .next t → ∀ k, run (j + k) s = run k t := by
  induction j with
  | zero => intro s t h k; cases h; rw [Nat.zero_add]
  | succ j ih =>
    intro s t h k
    rw [show j + 1 + k = (j + k) + 1 by omega]
    simp only [run] at h ⊢
    split at h
    · exact ih h k
    · cases h
    · cases h

/-- What `Answers` says, in terms of presenting the word. -/
theorem answers_iff {s : State} (hc : s.cfg.wf = true) (op b : Byte) (a : Word) (r : Result) :
    Answers s op b a r ↔ present op b a s = .next ((s.setIn op b a).setOut r) := by
  rw [Answers, step_withFetchWord hc, cwOp_cw, cwB_cw, cwA_cw]

end Sys2Proof.Machine
end

