-- ==== Sys2Proof/Laws/Sequence.lean ====
section
/-! SUPPORT. Lemmas for running the host sequences: the start of a sequence, what a wait leaves alone, and the two frames
on the bus (spec 44_sample_sequences.md R82 to R84). -/

namespace Sys2Proof.Machine

/-- A sequence starts with its expansion and its end mark before the host's other steps. -/
theorem run_starting {s : State} (hc : s.cfg.wf = true) (q : HostSequence) (k : Nat) :
    run (k + 1) (s.starting q) = run k { s with todo := expand s.cfg q ++ .seqEnd :: s.todo } :=
  run_cons (s := s.starting q) (h := .call q) (rest := s.todo) hc rfl rfl k

/-- Two completed runs are one. -/
theorem run_trans {j k : Nat} {s t u : State} (h : run j s = .next t) (h' : run k t = .next u) : run (j + k) s = .next u :=
  (run_add h k).trans h'

/-- A wait changes the device's conversion and the inputs only. -/
theorem waitFor_frame (t : Nat) (s : State) :
    (waitFor t s).cfg = s.cfg ∧ (waitFor t s).op = s.op ∧ (waitFor t s).b = s.b ∧ (waitFor t s).a = s.a
    ∧ (waitFor t s).out = s.out ∧ (waitFor t s).todo = s.todo ∧ (waitFor t s).rxBuf = s.rxBuf
    ∧ (waitFor t s).busOk = s.busOk ∧ (waitFor t s).ret = s.ret ∧ (waitFor t s).handle = s.handle
    ∧ (waitFor t s).log = s.log ∧ (waitFor t s).script = s.script := by
  rcases waitFor_cases t s with ⟨_, h⟩ | ⟨v, w, hv, ⟨_, r, h⟩ | ⟨_, h⟩⟩ <;> rw [h] <;> simp

/-- What is driven on `a` depends on the outputs, the pair, the received bytes and the free values only. -/
theorem asource_eval_congr (v : ASource) {s t : State} (h1 : t.out = s.out) (h2 : t.ret = s.ret) (h3 : t.rxBuf = s.rxBuf)
    (h4 : t.fresh = s.fresh) : v.eval t = v.eval s := by
  cases v <;> simp [ASource.eval, receivedByte, h1, h2, h3, h4]

/-- The timeout of a well-formed `Config` (R34). -/
theorem busTimeoutMs_of_wf {c : Config} (h : c.wf = true) : c.busTimeoutMs = 100 := by
  simp only [Config.wf, Config.fixedWf, Bool.and_eq_true, decide_eq_true_eq] at h
  exact h.2.2

/-- The transmit of a write frame for the configuration register whose parts are the outputs of FRAME_WR. -/
theorem transmit_confWrite {s : State} (hc : s.cfg.wf = true) (hh : s.handle = true) (hx : s.out.x = 0x01#8) :
    transmit (.write .outX .outYHi .outYLo) s = .next { s with
      busOk := replyOk (nextReply s)
      log := s.log ++ [.transmit s.cfg.devAddr [0x01#8, s.out.y.extractLsb' 8 8, s.out.y.extractLsb' 0 8] 100]
      dev := if replyReaches (nextReply s) then s.dev.writeConf s.cfg s.out.y else s.dev
      script := s.script.tail
      fresh := s.fresh + 1 } := by
  have hb := busTimeoutMs_of_wf hc
  simp only [transmit, hh, if_true, Frame.bytes, ByteSource.eval, hx, hb]
  rw [show (1#8 : Byte) = confPtr from rfl, takeFrame_write, append_extract_bytes]
  cases replyReaches (nextReply s) <;> simp

/-- The transmit of a pointer frame for the conversion register. -/
theorem transmit_convPointer {s : State} (hc : s.cfg.wf = true) (hh : s.handle = true) (hx : s.out.x = 0x00#8) :
    transmit (.pointer .outX) s = .next { s with
      busOk := replyOk (nextReply s)
      log := s.log ++ [.transmit s.cfg.devAddr [0x00#8] 100]
      dev := if replyReaches (nextReply s) then s.dev.point 0x00#8 else s.dev
      script := s.script.tail
      fresh := s.fresh + 1 } := by
  have hb := busTimeoutMs_of_wf hc
  simp only [transmit, hh, if_true, Frame.bytes, ByteSource.eval, hx, hb]
  rw [show (0#8 : Byte) = convPtr from rfl, takeFrame_pointer (.inl rfl)]
  cases replyReaches (nextReply s) <;> simp

end Sys2Proof.Machine
end

