-- ==== Sys2Proof/Tests/Slice0.lean ====
section
/-! SUPPORT. Tests: the well-formedness smoke tests, a word of every operation written out from spec/30_encoding.md R41,
R42, R54, one step of every operation against spec/95_test_vectors.md, and a witness for the hypotheses of every
obligation that has some. -/

namespace Sys2Proof.Tests

open Sys2Proof Sys2Proof.Machine

/-! ### Well-formedness refuses an ill-formed term, check by check -/

theorem test_wf_gain_five : gainFieldOk 5#3 = true := by decide
theorem test_wf_refuses_encSe_gain_six : (Instr.encSe 0#8 6#3).wf hardwareConfig = false := by decide
theorem test_wf_refuses_encD01_gain_six : (Instr.encD01 6#3).wf hardwareConfig = false := by decide
theorem test_wf_refuses_encD23_gain_seven : (Instr.encD23 7#3).wf hardwareConfig = false := by decide
theorem test_wf_refuses_dec_mux : (Instr.dec 0x9183#16).wf hardwareConfig = false := by decide
theorem test_wf_refuses_dec_pga : (Instr.dec 0xCD83#16).wf hardwareConfig = false := by decide
theorem test_wf_accepts_dec : (Instr.dec 0xF383#16).wf hardwareConfig = true := by decide
theorem test_wf_refuses_scaleChgi_2048 : (Instr.scaleChgi 0x0800#16).wf hardwareConfig = false := by decide
theorem test_wf_refuses_scaleChgi_minus_2049 : (Instr.scaleChgi 0xF7FF#16).wf hardwareConfig = false := by decide
theorem test_wf_accepts_scaleChgi_minus_2048 : (Instr.scaleChgi 0xF800#16).wf hardwareConfig = true := by decide

theorem test_config_wf : hardwareConfig.wf = true ∧ hardwareConfig.v16.wf = true ∧ hardwareConfig.v2n.wf = true := by
  decide
theorem test_config_refuses_equal_mux : ({ hardwareConfig with muxSe1 := 0b100#3 } : Config).codesWf = false := by decide
theorem test_config_refuses_equal_pga : ({ hardwareConfig with pga5 := 0b000#3 } : Config).codesWf = false := by decide
theorem test_config_refuses_zero_den :
    ({ hardwareConfig with packDen := 0 } : Config).scalerWf = false
    ∧ ({ hardwareConfig with chgvDen := 0 } : Config).scalerWf = false
    ∧ ({ hardwareConfig with maDen := 0 } : Config).scalerWf = false := by decide
theorem test_config_refuses_wide_constants :
    ({ hardwareConfig with packNum := 65536, packDen := 65535 } : Config).scalerWf = false
    ∧ ({ hardwareConfig with chgvNum := 65536, chgvDen := 65535 } : Config).scalerWf = false
    ∧ ({ hardwareConfig with maNum := 65536, maDen := 65535 } : Config).scalerWf = false
    ∧ ({ hardwareConfig with packDen := 65536 } : Config).scalerWf = false
    ∧ ({ hardwareConfig with chgvDen := 65536 } : Config).scalerWf = false
    ∧ ({ hardwareConfig with maDen := 65536 } : Config).scalerWf = false := by decide
theorem test_config_refuses_overflow :
    ({ hardwareConfig with packNum := 17, packDen := 1 } : Config).scalerWf = false
    ∧ ({ hardwareConfig with chgvNum := 17 } : Config).scalerWf = false
    ∧ ({ hardwareConfig with maNum := 16 } : Config).scalerWf = false := by decide
theorem test_config_refuses_other_channels :
    ({ hardwareConfig with packCh := 2 } : Config).scalerWf = false
    ∧ ({ hardwareConfig with packGain := 2 } : Config).scalerWf = false
    ∧ ({ hardwareConfig with chgvCh := 3 } : Config).scalerWf = false
    ∧ ({ hardwareConfig with chgvGain := 1 } : Config).scalerWf = false := by decide
theorem test_config_refuses_other_fixed :
    ({ hardwareConfig with osStart := 0#1 } : Config).fixedWf = false
    ∧ ({ hardwareConfig with busTimeoutMs := 99 } : Config).fixedWf = false := by decide

/-! ### Decoding: `op` in bits 31:24, `b` in 23:16, `a` in 15:0 (R41), written out bit by bit -/

theorem test_decode_frameWr : decode 0b00000000_00000001_1111001110000011#32 = .ok (.frameWr 0x01#8 0xF383#16) := by decide
theorem test_decode_frameRd : decode 0b00000001_00000001_0000000000000000#32 = .ok (.frameRd 0x01#8) := by decide
theorem test_decode_compose : decode 0b00000010_00000100_0000000001110000#32 = .ok (.compose 0x04#8 0x70#8) := by decide
theorem test_decode_encSe : decode 0b00000011_00000011_0000000000000001#32 = .ok (.encSe 3#8 1#3) := by decide
theorem test_decode_encD01 : decode 0b00000100_00000000_0000000000000101#32 = .ok (.encD01 5#3) := by decide
theorem test_decode_encD23 : decode 0b00000101_00000000_0000000000000001#32 = .ok (.encD23 1#3) := by decide
theorem test_decode_dec : decode 0b00000110_00000000_1111001110000011#32 = .ok (.dec 0xF383#16) := by decide
theorem test_decode_align12 : decode 0b00000111_00000000_0000010001110000#32 = .ok (.align12 0x0470#16) := by decide
theorem test_decode_sext12 : decode 0b00001000_00000000_0000111111011010#32 = .ok (.sext12 0x0FDA#16) := by decide
theorem test_decode_cfgPack : decode 0b00001001_00000000_0000000000000000#32 = .ok .cfgPack := by decide
theorem test_decode_cfgChgv : decode 0b00001010_00000000_0000000000000000#32 = .ok .cfgChgv := by decide
theorem test_decode_cfgChgi : decode 0b00001011_00000000_0000000000000000#32 = .ok .cfgChgi := by decide
theorem test_decode_scalePack : decode 0b00001100_00000000_0000000001000111#32 = .ok (.scalePack 71#12) := by decide
theorem test_decode_scaleChgv : decode 0b00001101_00000000_0000000001100100#32 = .ok (.scaleChgv 100#12) := by decide
theorem test_decode_scaleChgi : decode 0b00001110_00000000_1111111111011010#32 = .ok (.scaleChgi 0xFFDA#16) := by decide
theorem test_decode_refuses_reserved_op :
    decode 0x0F000000#32 = .error (.reservedOp 0x0F#8) ∧ decode 0xFFFFFFFF#32 = .error (.reservedOp 0xFF#8) := by decide
theorem test_decode_refuses_mbz :
    decode 0x01000001#32 = .error (.mbzNonZero .frameRd) ∧ decode 0x02000100#32 = .error (.mbzNonZero .compose)
    ∧ decode 0x03000100#32 = .error (.mbzNonZero .encSe) ∧ decode 0x04010001#32 = .error (.mbzNonZero .encD01)
    ∧ decode 0x0601F383#32 = .error (.mbzNonZero .dec) ∧ decode 0x07010470#32 = .error (.mbzNonZero .align12)
    ∧ decode 0x08800800#32 = .error (.mbzNonZero .sext12) ∧ decode 0x09000001#32 = .error (.mbzNonZero .cfgPack)
    ∧ decode 0x0A010000#32 = .error (.mbzNonZero .cfgChgv) ∧ decode 0x0B008000#32 = .error (.mbzNonZero .cfgChgi)
    ∧ decode 0x0C001000#32 = .error (.mbzNonZero .scalePack) := by decide
theorem test_decodeTableWord : decodeTableWord 32 0x0C000047 = some (.scalePack 71#12) := by decide

/-! ### One step of each operation, from reset, against spec/95_test_vectors.md section 2 -/

/-- The outputs after the step that presents `w` in the reset state with the parameters `c`. -/
def answer (c : Config) (w : Nat) : Option Result :=
  match step (({ State.reset with cfg := c } : State).withFetchWord 32 w) with
  | .next t => some t.out
  | _ => none

theorem test_frameWr : answer hardwareConfig 0x0001F383 = some ⟨0xF383#16, 0x01#8, 0#1, 0#3⟩ := by decide
theorem test_frameRd : answer hardwareConfig 0x01FF0000 = some ⟨0#16, 0xFF#8, 0#1, 0#3⟩ := by decide
theorem test_frameRd_mbz : answer hardwareConfig 0x01000001 = some ⟨0#16, 0#8, 0#1, 4#3⟩ := by decide
theorem test_compose : answer hardwareConfig 0x02040070 = some ⟨0x0470#16, 0#8, 0#1, 0#3⟩ := by decide
theorem test_encSe : answer hardwareConfig 0x03020005 = some ⟨0xEB83#16, 0#8, 1#1, 0#3⟩ := by decide
theorem test_encSe_both_wrong : answer hardwareConfig 0x03090006 = some ⟨0#16, 0#8, 0#1, 4#3⟩
    ∧ answer hardwareConfig 0x03040001 = some ⟨0#16, 0#8, 0#1, 1#3⟩ := by decide
theorem test_encD01 : answer hardwareConfig 0x04000005 = some ⟨0x8B83#16, 0#8, 1#1, 0#3⟩ := by decide
theorem test_encD23 : answer hardwareConfig 0x05000001 = some ⟨0xB383#16, 0#8, 1#1, 0#3⟩ := by decide
theorem test_dec : answer hardwareConfig 0x06007200 = some ⟨1#16, 3#8, 0#1, 0#3⟩ := by decide
theorem test_dec_unrecognised : answer hardwareConfig 0x0600CF83 = some ⟨0#16, 0#8, 0#1, 4#3⟩ := by decide
theorem test_align12 : answer hardwareConfig 0x0700FFFF = some ⟨0x0FFF#16, 0#8, 0#1, 0#3⟩ := by decide
theorem test_sext12 : answer hardwareConfig 0x08000800 = some ⟨0xF800#16, 0#8, 0#1, 0#3⟩ := by decide
theorem test_sext12_wide : answer hardwareConfig 0x08001000 = some ⟨0xF000#16, 0#8, 0#1, 0#3⟩ := by decide
theorem test_cfgPack : answer hardwareConfig 0x09000000 = some ⟨0xF383#16, 0#8, 1#1, 0#3⟩ := by decide
theorem test_cfgChgv : answer hardwareConfig 0x0A000000 = some ⟨0xE583#16, 0#8, 1#1, 0#3⟩ := by decide
theorem test_cfgChgi_v16 : answer hardwareConfig.v16 0x0B000000 = some ⟨0x8B83#16, 0#8, 1#1, 0#3⟩ := by decide
theorem test_cfgChgi_v2n : answer hardwareConfig.v2n 0x0B000000 = some ⟨0x8583#16, 0#8, 1#1, 0#3⟩ := by decide
theorem test_scalePack : answer hardwareConfig 0x0C000FFF = some ⟨0xE14C#16, 0#8, 0#1, 0#3⟩ := by decide
theorem test_scalePack_4096 : answer hardwareConfig 0x0C001000 = some ⟨0#16, 0#8, 0#1, 4#3⟩ := by decide
theorem test_scaleChgv : answer hardwareConfig 0x0D000FFF = some ⟨0x3FFC#16, 0#8, 0#1, 0#3⟩ := by decide
theorem test_scaleChgi_v16 : answer hardwareConfig.v16 0x0E00F800 = some ⟨0xF800#16, 0#8, 0#1, 0#3⟩ := by decide
theorem test_scaleChgi_v2n : answer hardwareConfig.v2n 0x0E00F800 = some ⟨0x0800#16, 0#8, 0#1, 0#3⟩ := by decide
theorem test_reserved_op : answer hardwareConfig 0x80000000 = some ⟨0#16, 0#8, 0#1, 4#3⟩ := by decide

/-! ### Witnesses: concrete states and operands that meet the hypotheses of each obligation, clause by clause -/

/-- The documented setting V16, with a delay and an address of the test's own. -/
def cfgT : Config := { hardwareConfig.v16 with devAddr := 0x48#7, convDelay := 1000 }

/-- A state with nothing to do and a device that holds 0xF383, 0x0470, pointer 0x00, no conversion in progress. -/
def base : State :=
  { State.reset with
    cfg := cfgT
    dev := { conf := 0xF383#16, conv := 0x0470#16, ptr := 0x00#8, inFlight := none, convDefined := true, readEarly := false } }

/-- The host is about to do `h`, and the transport will answer `sc`. -/
def doing (h : HostStep) (sc : List BusReply) : State := { base with todo := [h], script := sc }

/-- The state a step answers (the old one where it stops). -/
def after (s : State) : State :=
  match step s with
  | .next t => t
  | _ => s

/-- The next host step presents ENC_SE 3, 1. -/
def encoding : State := doing (.op 0x03#8 (.lit 3#8) (.lit 1#16)) []

theorem witness_base_wf : base.cfg.wf = true ∧ base.handle = true := by decide
theorem witness_DecodedWordIsTheEncoding : decode 0x03FF0007#32 = .ok (.encSe 0xFF#8 7#3) := by decide
theorem witness_StepRunsTheDecodedInstruction :
    encoding.cfg.wf = true ∧ encoding.todo = .op 0x03#8 (.lit 3#8) (.lit 1#16) :: []
    ∧ decode (cw 0x03#8 ((BSource.lit 3#8).eval encoding) ((ASource.lit 1#16).eval encoding)) = .ok (.encSe 3#8 1#3) := by
  decide
theorem witness_EveryWordHasAResult_reserved : base.cfg.wf = true ∧ 0x0E < (0x0F#8).toNat ∧ 0x0E < (0xFF#8).toNat := by
  decide
theorem witness_EveryWordHasAResult_mbz : ∀ i, decode (cw 0x01#8 0#8 1#16) ≠ .ok i := by
  intro i h
  rw [show decode (cw 0x01#8 0#8 1#16) = .error (.mbzNonZero .frameRd) by decide] at h
  cases h
theorem witness_EveryWordHasAResult_operand : base.cfg.wf = true ∧ (Instr.encSe 0#8 6#3).wf base.cfg = false := by decide
theorem witness_EveryWordHasAResult_channel : (5#16).toNat ≤ 5 ∧ 3 < (4#8).toNat := by decide
theorem witness_IllegalOperandComesBeforeInvalidChannel :
    base.cfg.wf = true ∧ 5 < (6#16).toNat ∧ 3 < (4#8).toNat := by decide
theorem witness_OutputsDependOnInputsAlone : base.cfg.wf = true ∧ encoding.cfg = base.cfg ∧ encoding ≠ base := by decide
theorem witness_ErrorLeavesTheNextOperationAlone : base.cfg.wf = true ∧ Answers base 0x03#8 4#8 1#16 ⟨0#16, 0#8, 0#1, 1#3⟩ :=
  ⟨by decide, rfl⟩
theorem witness_EveryStepKeepsPortsCombinational : PortsCombinational encoding ∧ step encoding = .next (after encoding) :=
  ⟨rfl, rfl⟩
theorem witness_EveryStepKeepsStatusesLegal : StatusesLegal encoding ∧ step encoding = .next (after encoding) :=
  ⟨⟨.inl rfl, .inl rfl⟩, rfl⟩
theorem witness_ConfigIsConstantAndLogGrows :
    step (doing (.tx (.pointer (.lit 0#8))) [.ok]) = .next (after (doing (.tx (.pointer (.lit 0#8))) [.ok]))
    ∧ (after (doing (.tx (.pointer (.lit 0#8))) [.ok])).log.length = 1 := ⟨rfl, by decide⟩
theorem witness_IllFormedConfigIsRefused :
    ({ base with cfg := { cfgT with packDen := 0 } } : State).cfg.wf = false ∧ cfgT.wf = true := by decide
theorem witness_FrameRd_mbz : base.cfg.wf = true ∧ (1#16 : Word) ≠ 0#16 := by decide
theorem witness_Compose_mbz : (0x0100#16 : Word).extractLsb' 8 8 ≠ 0#8 := by decide
theorem witness_EncSe_illegal : 5 < (6#16).toNat ∧ 5 < (6#3).toNat := by decide
theorem witness_EncSe_invalid : (5#16).toNat ≤ 5 ∧ (5#3).toNat ≤ 5 ∧ 3 < (4#8).toNat := by decide
theorem witness_EncD01_illegal : (1#8 : Byte) ≠ 0#8 ∨ 5 < (0#16).toNat := by decide
theorem witness_EncD23_illegal : (0#8 : Byte) ≠ 0#8 ∨ 5 < (6#16).toNat := by decide
theorem witness_Dec_known : base.cfg.wf = true ∧ fMux 0x8B83#16 = base.cfg.mux .d01 ∧ fPga 0x8B83#16 = base.cfg.pga 5 := by
  decide
theorem witness_Dec_unknown :
    (∀ t : Selection, fMux 0x9183#16 ≠ base.cfg.mux t) ∧ (∀ g : Fin 6, fPga 0xCD83#16 ≠ base.cfg.pga g)
    ∧ (0xF383#16 : Word).extractLsb' 9 6 = (0x7200#16 : Word).extractLsb' 9 6 := by
  refine ⟨?_, by decide, by decide⟩
  intro t
  cases t with
  | se ch => revert ch; decide
  | d01 => decide
  | d23 => decide
theorem witness_EncodeThenDecRoundTrip : base.cfg.wf = true ∧ (Instr.encD23 (BitVec.ofNat 3 (5 : Fin 6).val)) = .encD23 5#3 := by
  decide
theorem witness_Sext_clauses :
    0x07FF < (0x0800#16).toNat ∧ (0x07FF#16).toNat ≤ 0x07FF ∧ (0x0FFF#16).toNat ≤ 0x0FFF := by decide
theorem witness_CfgChgi_settings :
    ({ base with cfg := hardwareConfig.v16 } : State).cfg = hardwareConfig.v16 ∧ hardwareConfig.v16.wf = true
    ∧ ({ base with cfg := hardwareConfig.v2n } : State).cfg = hardwareConfig.v2n ∧ hardwareConfig.v2n.wf = true :=
  ⟨rfl, by decide, rfl, by decide⟩
theorem witness_CfgOps_mbz : (1#8 : Byte) ≠ 0#8 ∨ (0#16 : Word) ≠ 0#16 := by decide
theorem witness_CfgOps_mbz_word : (0#8 : Byte) ≠ 0#8 ∨ (0x8000#16 : Word) ≠ 0#16 := by decide
theorem witness_CfgChgiWordsOfTheTwoSettings :
    ({ base with cfg := hardwareConfig.v16 } : State).cfg = hardwareConfig.v16
    ∧ ({ base with cfg := hardwareConfig.v2n } : State).cfg = hardwareConfig.v2n := ⟨rfl, rfl⟩
theorem witness_ScalePack_constants :
    base.cfg.packNum = 1000 ∧ base.cfg.packDen = 71 ∧ base.cfg.chgvNum = 4 ∧ base.cfg.chgvDen = 1 ∧ 4095 < (4096#16).toNat := by
  decide
theorem witness_ScaleChgi_legal :
    base.cfg.wf = true ∧ -2048 ≤ (0xF800#16).toInt ∧ (0x07FF#16).toInt ≤ 2047 ∧ base.cfg.maNegate = 0#1
    ∧ hardwareConfig.v2n.maNegate = 1#1 ∧ base.cfg.maNum = 1 ∧ base.cfg.maDen = 1 := by decide
theorem witness_ScaleChgi_illegal : (0xF7FF#16).toInt < -2048 ∧ 2047 < (0x0800#16).toInt := by decide
theorem witness_ScalerRoundsAsStated : 1 ≤ (71 : Nat) ∧ (70 : Nat) ≤ 71 := by decide

/-- A write frame for the configuration register, answered `r`. -/
def confWrite (r : BusReply) : State := doing (.tx (.write (.lit 0x01#8) (.lit 0xF3#8) (.lit 0x83#8))) [r]

theorem witness_ConfigurationWriteStartsConversion :
    (confWrite .ok).cfg.wf = true ∧ (confWrite .ok).handle = true ∧ (confWrite .ok).script = [.ok]
    ∧ (after (confWrite .ok)).dev.inFlight = some (0xF383#16, 0) ∧ (after (confWrite (.fail false))).dev = base.dev
    ∧ (after (confWrite (.fail true))).dev.conf = 0xF383#16 ∧ (after (confWrite (.fail true))).busOk = false := by decide
/-- A configuration write whose pointer and value are the outputs of FRAME_WR 0x01, `v`, with the conversion `c` in
progress. -/
def confWriteOf (v : Word) (c : Option (Word × Nat)) : State :=
  { doing (.tx (.write .outX .outYHi .outYLo)) [.ok] with
    out := ⟨v, 0x01#8, 0#1, 0#3⟩, dev := { base.dev with inFlight := c } }

/-- OS = 0: nothing is started, and what the conversion register holds stays defined in single-shot mode only, and only
with no conversion in progress (log entries 15, 30). -/
theorem witness_ConfigurationWrite_os_zero :
    ByteSource.outX.eval (confWriteOf 0x7383#16 none) = 0x01#8
    ∧ (after (confWriteOf 0x7383#16 none)).dev.inFlight = none ∧ (after (confWriteOf 0x7383#16 none)).dev.convDefined = true
    ∧ (after (confWriteOf 0x7283#16 none)).dev.convDefined = false
    ∧ (after (confWriteOf 0x7383#16 (some (0xF383#16, 5)))).dev.inFlight = some (0xF383#16, 5)
    ∧ (after (confWriteOf 0x7383#16 (some (0xF383#16, 5)))).dev.convDefined = false := by decide

/-- OS = 1 with a conversion in progress: the new one takes its place; at another rate, input code, gain code or mode its
result is not defined (log entries 15, 30, 31). -/
theorem witness_ConfigurationWrite_os_one :
    (after (confWriteOf 0xB383#16 (some (0xF383#16, 5)))).dev.inFlight = some (0xB383#16, 0)
    ∧ (after (confWriteOf 0xB383#16 (some (0xF383#16, 5)))).dev.convDefined = true
    ∧ (after (confWriteOf 0xF3A3#16 none)).dev.convDefined = false ∧ (after (confWriteOf 0x9383#16 none)).dev.convDefined = false
    ∧ (after (confWriteOf 0xFF83#16 none)).dev.convDefined = false ∧ (after (confWriteOf 0xF283#16 none)).dev.convDefined = false := by
  decide

/-- A receive answered `r` from the register at `p` of a device that holds what `d` makes of the one of `base`. -/
def receivingFrom (p : Byte) (r : BusReply) (d : Device → Device) : State :=
  { doing .rx [r] with dev := { d base.dev with ptr := p } }

/-- A receive from the register at `p`. -/
def receiving (p : Byte) : State := receivingFrom p .ok id

theorem witness_ReceiveDelivers_conversion :
    (receiving 0x00#8).cfg.wf = true ∧ (receiving 0x00#8).handle = true ∧ (receiving 0x00#8).dev.inFlight = none
    ∧ (receiving 0x00#8).dev.readEarly = false ∧ (receiving 0x00#8).dev.convDefined = true
    ∧ (after (receiving 0x00#8)).rxBuf = [0x04#8, 0x70#8] := by decide
theorem witness_ReceiveDelivers_configuration : (receiving 0x01#8).dev.ptr = 0x01#8 ∧ (after (receiving 0x01#8)).rxBuf.length = 2 := by
  decide
theorem witness_ReceiveDelivers_given :
    (after (receivingFrom 0x00#8 (.deliver [0x12#8]) id)).rxBuf = [0x12#8]
    ∧ (after (receivingFrom 0x01#8 (.deliver [0x12#8]) id)).busOk = true := by decide
theorem witness_ReceiveDelivers_failed :
    (after (receivingFrom 0x00#8 (.fail true) id)).rxBuf = [] ∧ (after (receivingFrom 0x02#8 (.fail false) id)).busOk = false := by
  decide
theorem witness_ReceiveDelivers_unsettled :
    (receivingFrom 0x00#8 .ok fun d => { d with inFlight := some (0xF383#16, 0) }).dev.inFlight ≠ none
    ∧ (receivingFrom 0x00#8 .ok fun d => { d with readEarly := true }).dev.readEarly = true
    ∧ (receivingFrom 0x00#8 .ok fun d => { d with convDefined := false }).dev.convDefined = false := by decide
theorem witness_ReceiveDelivers_outside :
    1 < (receiving 0x02#8).dev.ptr.toNat ∧ step (receiving 0x02#8) = .refused (.deviceAccessUndefined 0x02#8)
    ∧ step (receivingFrom 0xFF#8 (.deliver [0#8, 0#8]) id) = .refused (.deviceAccessUndefined 0xFF#8) := ⟨by decide, rfl, rfl⟩

/-- A conversion that has run 999 microseconds, and a wait of `t`. -/
def waiting (t : Nat) : State :=
  { doing (.wait t) [] with dev := { base.dev with inFlight := some (0xF383#16, 999) }, adc := [0x1230#16] }

theorem witness_WaitingTheDelay :
    (waiting 1).cfg.wf = true ∧ (waiting 1).dev.inFlight = some (0xF383#16, 999) ∧ (waiting 1).cfg.convDelay ≤ 999 + 1
    ∧ 999 + 0 < (waiting 0).cfg.convDelay ∧ (after (waiting 1)).dev.conv = 0x1230#16
    ∧ (after (waiting 0)).dev.conv = 0x0470#16 := by decide
theorem witness_WaitingTheDelay_nothing_in_progress :
    (doing (.wait 5) []).dev.inFlight = none ∧ step (doing (.wait 5) []) = .next { doing (.wait 5) [] with todo := [] } :=
  ⟨by decide, rfl⟩
/-- Frames the device is given no behaviour for: a write to the conversion register and a pointer outside the map. -/
def unlistedWrite (r : BusReply) : State := doing (.tx (.write (.lit 0x00#8) (.lit 0#8) (.lit 0#8))) [r]
def unlistedPointer (r : BusReply) : State := doing (.tx (.pointer (.lit 0x02#8))) [r]

theorem witness_UnlistedDeviceAccess_write :
    (unlistedWrite .ok).cfg.wf = true ∧ (unlistedWrite .ok).handle = true ∧ (ByteSource.lit 0x00#8).eval base ≠ 0x01#8
    ∧ replyReaches .ok = true ∧ step (unlistedWrite (.fail true)) = .refused (.deviceAccessUndefined 0x00#8)
    ∧ step (unlistedWrite (.deliver [])) = .refused (.deviceAccessUndefined 0x00#8)
    ∧ (after (unlistedWrite (.fail false))).busOk = false := ⟨by decide, rfl, by decide, rfl, rfl, rfl, by decide⟩
theorem witness_UnlistedDeviceAccess_pointer :
    (unlistedPointer .ok).cfg.wf = true ∧ 1 < ((ByteSource.lit 0x02#8).eval base).toNat
    ∧ replyReaches (.fail true) = true ∧ step (unlistedPointer (.fail true)) = .refused (.deviceAccessUndefined 0x02#8)
    ∧ step (unlistedPointer (.deliver [])) = .refused (.deviceAccessUndefined 0x02#8)
    ∧ (after (unlistedPointer (.fail false))).busOk = false := ⟨by decide, by decide, rfl, rfl, rfl, by decide⟩
theorem witness_UnlistedDeviceAccess_handle :
    ({ doing .rx [.ok] with handle := false } : State).cfg.wf = true
    ∧ ({ doing .rx [.ok] with handle := false } : State).handle = false := by decide
theorem witness_RunEnds : base.cfg.wf = true ∧ base.todo = [] ∧ encoding.todo ≠ [] := by decide

/-- The transport answers `sc`, and the next conversion gives 0xFDA0. -/
def sampling (sc : List BusReply) : State := { base with script := sc, adc := [0xFDA0#16] }

/-- The outputs are a configuration word, as `sample` finds them (R84). -/
def encoded (sc : List BusReply) : State := { sampling sc with out := ⟨0xF383#16, 0#8, 1#1, 0#3⟩ }

theorem witness_WriteReg :
    (sampling [.ok]).cfg.wf = true ∧ (sampling [.ok]).handle = true ∧ (sampling [.ok]).script = .ok :: []
    ∧ BusReply.ok ≠ .fail false ∧ (sampling [.fail true]).script = .fail true :: []
    ∧ (sampling [.fail false]).script = .fail false :: [] := by decide
theorem witness_WriteReg_other_pointer : (0x00#8 : Byte) ≠ 0x01#8 ∧ (0x02#8 : Byte) ≠ 0x01#8 ∧ BusReply.fail true ≠ .fail false := by
  decide
theorem witness_ReadReg :
    (sampling [.ok, .deliver [0x04#8, 0x70#8]]).cfg.wf = true ∧ (sampling [.ok, .deliver [0x04#8, 0x70#8]]).handle = true
    ∧ (sampling [.ok, .deliver [0x04#8, 0x70#8]]).script = .ok :: .deliver [0x04#8, 0x70#8] :: []
    ∧ (sampling [.fail true]).script = .fail true :: []
    ∧ (sampling [.ok, .fail false]).script = .ok :: .fail false :: []
    ∧ (sampling [.ok, .deliver [0x04#8]]).script = .ok :: .deliver [0x04#8] :: [] ∧ [0x04#8].length ≠ 2 := by decide
theorem witness_ReadReg_device_answer :
    (sampling [.ok, .ok]).script = .ok :: .ok :: [] ∧ Delivers .ok (sampling [.ok, .ok]).dev.conv 0x0470#16
    ∧ (sampling [.ok, .ok]).dev.inFlight = none ∧ (sampling [.ok, .ok]).dev.convDefined = true :=
  ⟨rfl, .inl ⟨rfl, rfl⟩, rfl, rfl⟩
theorem witness_ReadReg_given : Delivers (.deliver [0x04#8, 0x70#8]) (sampling []).dev.conv 0x0470#16 := .inr rfl
theorem witness_ReadReg_outside : 1 < (0x02#8).toNat ∧ BusReply.ok ≠ .fail false ∧ BusReply.fail true ≠ .fail false := by decide
theorem witness_Sample_device_answer :
    (sampling [.ok, .ok, .ok]).cfg.wf = true ∧ (sampling [.ok, .ok, .ok]).handle = true
    ∧ (sampling [.ok, .ok, .ok]).script = .ok :: .ok :: .ok :: [] ∧ (sampling [.ok, .ok, .ok]).adc = 0xFDA0#16 :: []
    ∧ Delivers .ok 0xFDA0#16 0xFDA0#16 :=
  ⟨by decide, by decide, rfl, rfl, .inl ⟨rfl, rfl⟩⟩
theorem witness_Sample_transport_answer :
    (sampling [.ok, .ok, .deliver [0x04#8, 0x70#8]]).script = .ok :: .ok :: .deliver [0x04#8, 0x70#8] :: []
    ∧ Delivers (.deliver [0x04#8, 0x70#8]) 0xFDA0#16 0x0470#16 :=
  ⟨rfl, .inr rfl⟩
theorem witness_Differential :
    HostSequence.sampleD01 (BitVec.ofNat 16 (5 : Fin 6).val) = .sampleD01 5#16
    ∧ HostSequence.sampleD23 (BitVec.ofNat 16 (0 : Fin 6).val) = .sampleD23 0#16 := by decide
theorem witness_RefusedSample : base.cfg.wf = true ∧ (5#16).toNat ≤ 5 ∧ 3 < (4#8).toNat ∧ 5 < (6#16).toNat := by decide
/-- A state in which a measurement's three calls succeed, with the parameters `c`. -/
def measuring (c : Config) : State := { sampling [.ok, .ok, .ok] with cfg := c }

theorem witness_PackMv :
    (measuring cfgT).cfg.wf = true ∧ (measuring cfgT).handle = true ∧ (measuring cfgT).script = .ok :: .ok :: .ok :: []
    ∧ (measuring cfgT).adc = 0xFDA0#16 :: [] ∧ Delivers .ok 0xFDA0#16 0xFDA0#16 := ⟨by decide, rfl, rfl, rfl, .inl ⟨rfl, rfl⟩⟩
theorem witness_ChgMv :
    (measuring cfgT).cfg.wf = true ∧ (measuring cfgT).handle = true
    ∧ Delivers (.deliver [0x04#8, 0x70#8]) 0xFDA0#16 0x0470#16 :=
  ⟨by decide, rfl, .inr rfl⟩
theorem witness_ChgMa :
    (measuring cfgT).cfg.wf = true ∧ (measuring cfgT).cfg.maNegate = 0#1
    ∧ (measuring { hardwareConfig.v2n with convDelay := 0 }).cfg.wf = true
    ∧ (measuring { hardwareConfig.v2n with convDelay := 0 }).cfg.maNegate = 1#1
    ∧ (measuring { hardwareConfig.v2n with convDelay := 0 }).handle = true := by decide
theorem witness_SampleStops :
    (encoded [.fail false]).cfg.wf = true ∧ (encoded [.fail false]).handle = true ∧ (encoded [.fail false]).out.go = 1#1
    ∧ (encoded [.fail false]).script = .fail false :: []
    ∧ (encoded [.ok, .fail true]).script = .ok :: .fail true :: []
    ∧ (encoded [.ok, .ok, .deliver [0x04#8]]).script = .ok :: .ok :: .deliver [0x04#8] :: [] := by decide
theorem witness_MeasurementsAndSamplesEnd :
    base.cfg.wf = true ∧ base.handle = true ∧ HostSequence.packMv = .packMv ∧ HostSequence.sampleD23 7#16 = .sampleD23 7#16 := by
  decide

/-- A pointer frame for the register at `p`, answered `r`, with a conversion in progress. -/
def pointing (p : Byte) (r : BusReply) : State :=
  { doing (.tx (.pointer (.lit p))) [r] with dev := { base.dev with inFlight := some (0xF383#16, 5) } }

theorem witness_PointerFrameSetsThePointer :
    (pointing 0x01#8 .ok).cfg.wf = true ∧ (pointing 0x01#8 .ok).handle = true ∧ (pointing 0x01#8 .ok).script = .ok :: []
    ∧ (after (pointing 0x01#8 .ok)).dev = { (pointing 0x01#8 .ok).dev with ptr := 0x01#8, readEarly := true }
    ∧ (after (pointing 0x01#8 (.fail true))).dev.ptr = 0x01#8
    ∧ (after (pointing 0x00#8 (.fail false))).dev = (pointing 0x00#8 (.fail false)).dev := by decide

/-- A conversion that has run 5 microseconds, and the host steps `h`. -/
def converting (h : List HostStep) : State :=
  { base with todo := h, script := [.ok, .ok], adc := [0x1230#16], dev := { base.dev with inFlight := some (0xF383#16, 5) } }

theorem witness_ReadStartedBeforeTheDelayIsFree :
    (converting [.tx (.pointer (.lit 0x00#8)), .wait 995, .rx]).cfg.wf = true
    ∧ (converting [.tx (.pointer (.lit 0x00#8)), .wait 995, .rx]).handle = true
    ∧ (converting []).dev.inFlight = some (0xF383#16, 5) ∧ (converting []).script = .ok :: .ok :: []
    ∧ (converting []).cfg.convDelay ≤ 5 + 995 := by decide
theorem witness_ReadStartedAfterTheDelayIsTheResult :
    (converting [.wait 995, .tx (.pointer (.lit 0x00#8)), .rx]).cfg.wf = true ∧ (converting []).handle = true
    ∧ (converting []).dev.inFlight = some (0xF383#16, 5) ∧ (converting []).dev.convDefined = true
    ∧ (converting []).cfg.convDelay ≤ 5 + 995 ∧ (converting []).adc = 0x1230#16 :: []
    ∧ (converting []).script = .ok :: .ok :: [] := by decide

/-- A read whose pointer frame came before the delay has passed is not settled, and one whose pointer frame comes after it
is (R111, R30). -/
theorem test_read_starts_with_the_pointer_frame :
    (after (after (converting [.tx (.pointer (.lit 0x00#8)), .wait 995]))).dev.settled = false
    ∧ (after (after (converting [.wait 995, .tx (.pointer (.lit 0x00#8))]))).dev.settled = true := by decide

end Sys2Proof.Tests
end

section
/-! PROOFS. The well-formedness of the record of R4 (spec 00_scope.md): the three groups of conditions of `Config.wf`, none
of which reads an OPEN field. -/

namespace Sys2Proof

/-! ### Well-formedness does not depend on the OPEN fields -/

/-- R50 speaks of the field codes only. -/
@[simp] theorem Config.codesWf_openFields (c : Config) (g : Fin 6) (n : BitVec 1) (d : BitVec 7) (t : Nat) :
    ({ c with maGain := g, maNegate := n, devAddr := d, convDelay := t } : Config).codesWf = c.codesWf := rfl

/-- R80 bounds `MA_GAIN` by 5, which its type does, and asks nothing of the other OPEN fields. -/
@[simp] theorem Config.scalerWf_openFields (c : Config) (g : Fin 6) (n : BitVec 1) (d : BitVec 7) (t : Nat) :
    ({ c with maGain := g, maNegate := n, devAddr := d, convDelay := t } : Config).scalerWf = c.scalerWf := rfl

/-- `OS_START` (R46) and `BUS_TIMEOUT_MS` (R34) are no OPEN fields. -/
@[simp] theorem Config.fixedWf_openFields (c : Config) (g : Fin 6) (n : BitVec 1) (d : BitVec 7) (t : Nat) :
    ({ c with maGain := g, maNegate := n, devAddr := d, convDelay := t } : Config).fixedWf = c.fixedWf := rfl

@[simp] theorem Config.wf_openFields (c : Config) (g : Fin 6) (n : BitVec 1) (d : BitVec 7) (t : Nat) :
    ({ c with maGain := g, maNegate := n, devAddr := d, convDelay := t } : Config).wf = c.wf := by
  simp only [Config.wf, Config.codesWf_openFields, Config.scalerWf_openFields, Config.fixedWf_openFields]

/-! ### The values of this hardware -/

/-- R50 for the codes of R47 and R48. -/
@[simp] theorem hardwareConfig_codesWf : hardwareConfig.codesWf = true := by decide

/-- R80 for the calibration constants of R4: the bounds are 57676, 16380 and 2048. -/
@[simp] theorem hardwareConfig_scalerWf : hardwareConfig.scalerWf = true := by decide

@[simp] theorem hardwareConfig_fixedWf : hardwareConfig.fixedWf = true := by decide

@[simp] theorem hardwareConfig_wf : hardwareConfig.wf = true := by
  simp only [Config.wf, hardwareConfig_codesWf, hardwareConfig_scalerWf, hardwareConfig_fixedWf, Bool.and_self]

/-- Settles O17: the record of R4 is well-formed, and well-formedness does not depend on its OPEN fields. -/
theorem hardwareConfigIsWellFormed : Obligations.HardwareConfigIsWellFormed := by
  unfold Obligations.HardwareConfigIsWellFormed
  refine ⟨hardwareConfig_wf, fun g n d t => ?_⟩
  rw [Config.wf_openFields]
  exact hardwareConfig_wf

end Sys2Proof
end

section
/-! PROOFS. The decoder and the meanings together compute the decoding procedure of spec 30_encoding.md R56, whatever the
state: presenting a command word drives the output ports with `perform` of the input ports and `Config` (10_state.md R11,
R13). -/

namespace Sys2Proof

/-! ### The must-be-zero fields as numbers -/

/-- A small value has a zero upper field. -/
theorem highField_of_lt {n m : Nat} {a : Word} (h : a.toNat < 2 ^ n) : a.extractLsb' n m = 0#m := by
  apply BitVec.eq_of_toNat_eq
  simp [BitVec.extractLsb'_toNat, Nat.shiftRight_eq_div_pow, Nat.div_eq_of_lt h]

@[simp] theorem and_FF (b : Byte) : b &&& 0xFF#8 = b := BitVec.and_allOnes

@[simp] theorem and_FFFF (a : Word) : a &&& 0xFFFF#16 = a := BitVec.and_allOnes

namespace Machine

/-! ### Each operation checks its own operands, so steps 3 and 4 of R56 change no result -/

/-- R43: the encoders of a pairing refuse a reserved gain index. -/
theorem encPairing_gainReserved (c : Config) (m : BitVec 3) {a : Word} (h : 5 < a.toNat) :
    encPairing c m a = .error .illegalOperand := by
  simp [encPairing, gainIndex_eq_none h]

/-- R98: a reserved gain index is refused whatever the channel. -/
theorem encSe_gainReserved (c : Config) (b : Byte) {a : Word} (h : 5 < a.toNat) :
    encSe c b a = .error .illegalOperand := by
  simp [encSe, gainIndex_eq_none h]

/-- R64: an invalid channel with a legal gain index. -/
theorem encSe_channelInvalid (c : Config) {b : Byte} {a : Word} (ha : ¬ 5 < a.toNat) (hb : 3 < b.toNat) :
    encSe c b a = .error .invalidChannel := by
  have hg : gainIndex a = some ⟨a.toNat, by omega⟩ := dif_pos (by omega)
  simp [encSe, hg, channelNumber_eq_none hb]

/-- R67: a value of no selection or of no gain is not decoded. -/
theorem dec_unrecognised {c : Config} {a : Word} (h : c.selectionOf (fMux a) = none ∨ c.gainOf (fPga a) = none) :
    dec c a = .error .illegalOperand := by
  rcases h with h | h
  · simp [dec, h]
  · cases hs : c.selectionOf (fMux a) <;> simp [dec, h, hs]

/-- R77, R78: a code above 4095 is not scaled. -/
theorem scaleUnsigned_outOfRange (num den : Nat) {a : Word} (h : 4095 < a.toNat) :
    scaleUnsigned num den a = .error .illegalOperand := by
  have hr : rawUnsigned a = none := if_neg (by omega)
  simp [scaleUnsigned, hr]

/-- R79: a signed code outside -2048..2047 is not scaled. -/
theorem scaleChgi_outOfRange (c : Config) {a : Word} (h : a.toInt < -2048 ∨ 2047 < a.toInt) :
    scaleChgi c a = .error .illegalOperand := by
  have hr : rawSigned a = none := if_neg (by omega)
  simp [scaleChgi, hr]

/-- R56 step 3: for an illegal operand the operation's own rule gives the error result. -/
theorem performRule_operandIllegal {c : Config} {op : Byte} {a : Word} (h : operandIllegal c op a) (b : Byte) :
    performRule c op b a = .error .illegalOperand := by
  rcases h with ⟨rfl | rfl | rfl, h⟩ | ⟨rfl | rfl, h⟩ | ⟨rfl, h⟩ | ⟨rfl, h⟩
  · exact encSe_gainReserved c b h
  · exact encPairing_gainReserved c _ h
  · exact encPairing_gainReserved c _ h
  · exact scaleUnsigned_outOfRange _ _ h
  · exact scaleUnsigned_outOfRange _ _ h
  · exact scaleChgi_outOfRange c h
  · exact dec_unrecognised h

/-- With the must-be-zero fields zero, the procedure is the operation's rule. -/
theorem perform_eq_performRule {op b : Byte} {a : Word} (c : Config) (hop : op.toNat ≤ 0x0E) (hb : b &&& mbzB op = 0#8)
    (ha : a &&& mbzA op = 0#16) : perform c op b a = performRule c op b a := by
  rw [perform, if_neg (by omega), if_neg (by simp [hb, ha])]
  split
  · next h => exact (performRule_operandIllegal h b).symm
  · next h =>
    split
    · next hch =>
      obtain ⟨rfl, hch⟩ := hch
      exact (encSe_channelInvalid c (fun h5 => h (.inl ⟨.inl rfl, h5⟩)) hch).symm
    · rfl

/-- R56 steps 1 to 3: the three ways to `IllegalOperand`. -/
theorem perform_eq_illegalOperand {c : Config} {op b : Byte} {a : Word}
    (h : 0x0E < op.toNat ∨ (b &&& mbzB op ≠ 0#8 ∨ a &&& mbzA op ≠ 0#16) ∨ operandIllegal c op a) :
    perform c op b a = .error .illegalOperand := by
  unfold perform
  split
  · rfl
  · next hop =>
    split
    · rfl
    · next hmbz =>
      exact if_pos ((h.resolve_left hop).resolve_left hmbz)

/-! ### The decoder finds the same words legal -/

/-- An instruction does what the rule of its operation says of the ports it drives (R42). -/
theorem exec_eq_performRule (i : Instr) (s : State) :
    exec i s = .next (s.setOut (performRule s.cfg i.opcode.code i.portB i.portA)) := by
  cases i <;> rfl

theorem opcode_code_le (o : Opcode) : o.code.toNat ≤ 0x0E := by cases o <;> decide

/-- An instruction drives its must-be-zero fields with zero (R42). -/
theorem portB_and_mbzB (i : Instr) : i.portB &&& mbzB i.opcode.code = 0#8 := by
  cases i <;> simp [Instr.portB, Instr.opcode, Opcode.code, mbzB]

theorem portA_and_mbzA (i : Instr) : i.portA &&& mbzA i.opcode.code = 0#16 := by
  cases i with
  | compose b0 b1 => exact (and_FF00 _).mpr (byteField_high b1)
  | _ => simp [Instr.portA, Instr.opcode, Opcode.code, mbzA]

/-- The ports of a decoded word are those its instruction drives. -/
theorem ports_of_decode_ok {op b : Byte} {a : Word} {i : Instr} (h : decode (cw op b a) = .ok i) :
    i.opcode.code = op ∧ i.portB = b ∧ i.portA = a := by
  rcases decode_ok_cases h with ⟨rfl, rfl⟩ | ⟨rfl, rfl, rfl⟩ | ⟨rfl, hz, rfl⟩ | ⟨rfl, hz, rfl⟩ | ⟨rfl, rfl, hz, rfl⟩
    | ⟨rfl, rfl, hz, rfl⟩ | ⟨rfl, rfl, rfl⟩ | ⟨rfl, rfl, rfl⟩ | ⟨rfl, rfl, rfl⟩ | ⟨rfl, rfl, rfl, rfl⟩
    | ⟨rfl, rfl, rfl, rfl⟩ | ⟨rfl, rfl, rfl, rfl⟩ | ⟨rfl, rfl, hz, rfl⟩ | ⟨rfl, rfl, hz, rfl⟩ | ⟨rfl, rfl, rfl⟩
  all_goals refine ⟨rfl, rfl, ?_⟩
  any_goals exact setWidth_lowField _ _ rfl a hz
  all_goals rfl

/-- A word that does not decode has a reserved `op`, a must-be-zero field that is not zero, or, where the field lies above
the gain or the code, an operand out of range. -/
theorem illegal_of_decode_error {op b : Byte} {a : Word} {e : DecodeError} (c : Config)
    (h : decode (cw op b a) = .error e) :
    0x0E < op.toNat ∨ (b &&& mbzB op ≠ 0#8 ∨ a &&& mbzA op ≠ 0#16) ∨ operandIllegal c op a := by
  by_contra hn
  simp only [not_or, not_not] at hn
  obtain ⟨hop, ⟨hb, ha⟩, hleg⟩ := hn
  simp only [decode, cwOp_cw, cwB_cw, cwA_cw] at h
  split at h
  · next ho => exact hop ((opcodeOf_eq_none_iff op).mp ho)
  · next o ho =>
    obtain rfl := code_of_opcodeOf ho
    have hgain : a.toNat ≤ 5 → a.extractLsb' 3 13 = 0#13 := fun h5 => highField_of_lt (by omega)
    have hcode : a.toNat ≤ 4095 → a.extractLsb' 12 4 = 0#4 := fun h5 => highField_of_lt (by omega)
    have hff := and_FF00 a
    cases o <;> simp_all [Opcode.code, mbzB, mbzA]

/-- R56 for every command word, in every state: the decoder and the meanings together are the decoding procedure. -/
theorem present_eq_perform (op b : Byte) (a : Word) (s : State) :
    present op b a s = .next ((s.setIn op b a).setOut (perform s.cfg op b a)) := by
  cases h : decode (cw op b a) with
  | error e => rw [present_error h, perform_eq_illegalOperand (illegal_of_decode_error s.cfg h)]; rfl
  | ok i =>
    obtain ⟨rfl, rfl, rfl⟩ := ports_of_decode_ok h
    rw [present_ok h, exec_eq_performRule, State.setIn_cfg,
      perform_eq_performRule s.cfg (opcode_code_le _) (portB_and_mbzB i) (portA_and_mbzA i)]

/-- Under a well-formed `Config` the step that presents a command word answers the record of the procedure. -/
theorem answers_perform {s : State} (hc : s.cfg.wf = true) (op b : Byte) (a : Word) :
    Answers s op b a (perform s.cfg op b a) :=
  (answers_iff hc op b a _).mpr (present_eq_perform op b a s)

/-- Settles O8: both machines answer the record of the decoding procedure, which reads `Config`, `op`, `b`, `a` alone. -/
theorem outputsDependOnInputsAlone : Obligations.OutputsDependOnInputsAlone := by
  unfold Obligations.OutputsDependOnInputsAlone
  intro s t op b a hc ht
  have hs := answers_perform hc op b a
  have ht' := answers_perform (ht ▸ hc : t.cfg.wf = true) op b a
  rw [ht] at ht'
  exact ⟨_, hs, ht'⟩

end Machine

end Sys2Proof
end

section
/-! PROOFS. What one step of the machine can do, said once (spec 44_sample_sequences.md R82 to R90), and the invariants
that follow from it: the ports stay combinational (10_state.md R11, R13), `Config` and the bus handle are never written
and the log only grows (R19, R23 (c); 20_memory.md R35). -/

namespace Sys2Proof.Machine

/-! ### What a step can do -/

/-- A step that answers a next state performed the first host step. -/
theorem step_next {s t : State} (h : step s = .next t) :
    s.cfg.wf = true ∧ ∃ x rest, s.todo = x :: rest ∧ hostStep x { s with todo := rest } = .next t := by
  unfold step at h
  split at h
  · next hc =>
    unfold hostNext at h
    split at h
    · cases h
    · next x rest hx => exact ⟨hc, x, rest, hx, h⟩
  · cases h

/-- The statuses a `RETURN` of a sequence gives: `OK`, `BusError`, the `st` of the last operation, or that of the last
pair (R82 to R90). -/
def ReturnStatus (s : State) (k : BitVec 3) : Prop :=
  k = statusOk ∨ k = ErrorKind.busError.code ∨ k = s.out.st ∨ k = s.ret.status

theorem ReturnStatus.busStatus (s : State) (ok : Bool) : ReturnStatus s (busStatus ok) := by
  cases ok
  · exact .inr (.inl rfl)
  · exact .inl rfl

/-- Everything that one host step can do to a state. -/
inductive HostEffect (s : State) : State → Prop where
  | presented (op b : Byte) (a : Word) : HostEffect s ((s.setIn op b a).setOut (perform s.cfg op b a))
  | transmitted {f : Frame} {t : State} (h : transmit f s = .next t) : HostEffect s t
  | received {t : State} (h : receive s = .next t) : HostEffect s t
  | waited (n : Nat) : HostEffect s (waitFor n s)
  | returned (v : Word) {k : BitVec 3} (hk : ReturnStatus s k) : HostEffect s (s.returns v k)
  | started (q : HostSequence) : HostEffect s { s with todo := expand s.cfg q ++ .seqEnd :: s.todo }
  | passed : HostEffect s s

/-- A conditional `RETURN` of an error either is taken or passed over. -/
theorem HostEffect.returnsError_ite {s : State} (p : Prop) [Decidable p] {k : BitVec 3} (hk : ReturnStatus s k) :
    HostEffect s (if p then s.returnsError k else s) := by
  split
  · exact .returned _ hk
  · exact .passed

/-- The same, passed over when the condition holds. -/
theorem HostEffect.returnsError_ite_not {s : State} (p : Prop) [Decidable p] {k : BitVec 3} (hk : ReturnStatus s k) :
    HostEffect s (if p then s else s.returnsError k) := by
  simpa only [ite_not] using HostEffect.returnsError_ite (¬ p) hk

theorem hostStep_effect {x : HostStep} {s t : State} (h : hostStep x s = .next t) : HostEffect s t := by
  cases x with
  | tx f => exact .transmitted h
  | rx => exact .received h
  | op o b a =>
    rw [hostStep, present_eq_perform] at h
    cases h
    exact .presented ..
  | wait n => cases h; exact .waited n
  | ifGoZero => cases h; exact .returnsError_ite _ (.inr (.inr (.inl rfl)))
  | ifTxFailed => cases h; exact .returnsError_ite_not _ (.inr (.inl rfl))
  | ifRxFailed => cases h; exact .returnsError_ite _ (.inr (.inl rfl))
  | ifNotOk => cases h; exact .returnsError_ite_not _ (.inr (.inr (.inr rfl)))
  | returnY => cases h; exact .returned _ (.inl rfl)
  | returnBusStatus => cases h; exact .returned _ (.busStatus s s.busOk)
  | call q => cases h; exact .started q
  | seqEnd => cases h; exact .passed

/-! ### The ports stay combinational -/

/-- Only the ports and `Config` matter. -/
theorem PortsCombinational.congr {s t : State} (hs : PortsCombinational s) (hc : t.cfg = s.cfg) (hop : t.op = s.op)
    (hb : t.b = s.b) (ha : t.a = s.a) (hout : t.out = s.out) : PortsCombinational t := by
  rw [PortsCombinational, hc, hop, hb, ha, hout]
  exact hs

/-- Only a presented command word writes the ports, and it leaves them as the procedure says. -/
theorem HostEffect.portsCombinational {s t : State} (h : HostEffect s t) (hs : PortsCombinational s) :
    PortsCombinational t := by
  cases h with
  | presented op b a => exact rfl
  | transmitted h =>
    obtain ⟨-, d, rfl, -, -⟩ := transmit_next h
    exact hs
  | received h =>
    obtain ⟨-, bs, rfl, -, -⟩ := receive_next h
    exact hs
  | waited n =>
    obtain ⟨hc, hop, hb, ha, hout, -⟩ := waitFor_frame n s
    exact hs.congr hc hop hb ha hout
  | returned v hk => exact hs
  | started q => exact hs
  | passed => exact hs

/-- Settles O11: the first host step is taken off its list, which leaves the ports alone, and performed. -/
theorem everyStepKeepsPortsCombinational : Obligations.EveryStepKeepsPortsCombinational := by
  unfold Obligations.EveryStepKeepsPortsCombinational
  intro s t hs h
  obtain ⟨-, x, rest, -, hx⟩ := step_next h
  exact (hostStep_effect hx).portsCombinational hs

/-- Settles O12: with the input ports at zero the operation is FRAME_WR, which answers zeros and success. -/
theorem resetPortsAreCombinational : Obligations.ResetPortsAreCombinational := by
  unfold Obligations.ResetPortsAreCombinational
  have hframe : perform hardwareConfig 0#8 0#8 0#16 = frameWr 0#8 0#16 :=
    perform_eq_performRule hardwareConfig (by decide) (by decide) (by decide)
  exact hframe.symm

/-! ### `Config`, the bus handle and the log -/

/-- A host step leaves `Config` and the bus handle alone and logs the call it makes, if it makes one. -/
theorem HostEffect.constants_log {s t : State} (h : HostEffect s t) :
    t.cfg = s.cfg ∧ t.handle = s.handle ∧ ∃ more, t.log = s.log ++ more ∧ more.length ≤ 1 := by
  have nothing : ∃ more, s.log = s.log ++ more ∧ more.length ≤ 1 := ⟨[], by simp⟩
  cases h with
  | transmitted h =>
    obtain ⟨-, d, rfl, -, -⟩ := transmit_next h
    exact ⟨rfl, rfl, _, rfl, Nat.le_refl 1⟩
  | received h =>
    obtain ⟨-, bs, rfl, -, -⟩ := receive_next h
    exact ⟨rfl, rfl, _, rfl, Nat.le_refl 1⟩
  | waited n =>
    obtain ⟨hc, -, -, -, -, -, -, -, -, hh, hlog, -⟩ := waitFor_frame n s
    exact ⟨hc, hh, by rwa [hlog]⟩
  | presented op b a => exact ⟨rfl, rfl, nothing⟩
  | returned v hk => exact ⟨rfl, rfl, nothing⟩
  | started q => exact ⟨rfl, rfl, nothing⟩
  | passed => exact ⟨rfl, rfl, nothing⟩

/-- Settles O15: a step is the effect of one host step. -/
theorem configIsConstantAndLogGrows : Obligations.ConfigIsConstantAndLogGrows := by
  unfold Obligations.ConfigIsConstantAndLogGrows
  intro s t h
  obtain ⟨-, x, rest, -, hx⟩ := step_next h
  exact (hostStep_effect hx).constants_log

end Sys2Proof.Machine
end

section
/-! PROOFS. The shape of the records that operations answer (spec 10_state.md R13; 00_scope.md R8): an error carries
zeros, and `go` is 1 exactly for an encoding operation that succeeded. -/

namespace Sys2Proof.Machine

/-- R13: the operations that encode, the only ones that may set `go`. -/
abbrev IsEncoder (o : Opcode) : Prop :=
  o = .encSe ∨ o = .encD01 ∨ o = .encD23 ∨ o = .cfgPack ∨ o = .cfgChgv ∨ o = .cfgChgi

/-- R8, R13: what a record of the operation `o` may be. -/
def Result.WellShaped (o : Opcode) (r : Result) : Prop :=
  (r.st ≠ 0#3 → r.y = 0#16 ∧ r.x = 0#8 ∧ r.go = 0#1) ∧ (r.go = 1#1 ↔ r.st = 0#3 ∧ IsEncoder o)

theorem Result.done_wellShaped {o : Opcode} (h : ¬ IsEncoder o) (y : Word) (x : Byte) : (Result.done y x).WellShaped o :=
  ⟨fun hst => absurd rfl hst, iff_of_false (by simp [Result.done]) fun he => h he.2⟩

theorem Result.encoded_wellShaped {o : Opcode} (h : IsEncoder o) (y : Word) : (Result.encoded y).WellShaped o :=
  ⟨fun hst => absurd rfl hst, iff_of_true rfl ⟨rfl, h⟩⟩

theorem Result.error_wellShaped (o : Opcode) (k : ErrorKind) : (Result.error k).WellShaped o := by
  have hk : k.code ≠ 0#3 := by cases k <;> decide
  exact ⟨fun _ => ⟨rfl, rfl, rfl⟩, iff_of_false (by simp [Result.error]) fun he => hk he.1⟩

/-! ### The operations with an error of their own -/

theorem encSe_wellShaped {o : Opcode} (h : IsEncoder o) (c : Config) (b : Byte) (a : Word) :
    (encSe c b a).WellShaped o := by
  unfold encSe
  split
  · exact Result.error_wellShaped o _
  · split
    · exact Result.error_wellShaped o _
    · exact Result.encoded_wellShaped h _

theorem encPairing_wellShaped {o : Opcode} (h : IsEncoder o) (c : Config) (m : BitVec 3) (a : Word) :
    (encPairing c m a).WellShaped o := by
  unfold encPairing
  split
  · exact Result.error_wellShaped o _
  · exact Result.encoded_wellShaped h _

theorem dec_wellShaped {o : Opcode} (h : ¬ IsEncoder o) (c : Config) (a : Word) : (dec c a).WellShaped o := by
  unfold dec
  split
  · exact Result.done_wellShaped h _ _
  · exact Result.error_wellShaped o _

theorem scaleUnsigned_wellShaped {o : Opcode} (h : ¬ IsEncoder o) (num den : Nat) (a : Word) :
    (scaleUnsigned num den a).WellShaped o := by
  unfold scaleUnsigned
  split
  · exact Result.error_wellShaped o _
  · exact Result.done_wellShaped h _ _

theorem scaleChgi_wellShaped {o : Opcode} (h : ¬ IsEncoder o) (c : Config) (a : Word) : (scaleChgi c a).WellShaped o := by
  unfold scaleChgi
  split
  · exact Result.error_wellShaped o _
  · exact Result.done_wellShaped h _ _

/-- The rule of each operation, on any ports, answers a record of the operation's shape. -/
theorem performRule_wellShaped (o : Opcode) (c : Config) (b : Byte) (a : Word) :
    (performRule c o.code b a).WellShaped o := by
  cases o with
  | frameWr => exact Result.done_wellShaped (by decide) _ _
  | frameRd => exact Result.done_wellShaped (by decide) _ _
  | compose => exact Result.done_wellShaped (by decide) _ _
  | encSe => exact encSe_wellShaped (by decide) c b a
  | encD01 => exact encPairing_wellShaped (by decide) c _ a
  | encD23 => exact encPairing_wellShaped (by decide) c _ a
  | dec => exact dec_wellShaped (by decide) c a
  | align12 => exact Result.done_wellShaped (by decide) _ _
  | sext12 => exact Result.done_wellShaped (by decide) _ _
  | cfgPack => exact Result.encoded_wellShaped (by decide) _
  | cfgChgv => exact Result.encoded_wellShaped (by decide) _
  | cfgChgi => exact Result.encoded_wellShaped (by decide) _
  | scalePack => exact scaleUnsigned_wellShaped (by decide) _ _ a
  | scaleChgv => exact scaleUnsigned_wellShaped (by decide) _ _ a
  | scaleChgi => exact scaleChgi_wellShaped (by decide) c a

/-- Settles O9: an instruction writes the record of its operation's rule on the ports it drives. -/
theorem errorsCarryZerosAndOnlyEncodersSetGo : Obligations.ErrorsCarryZerosAndOnlyEncodersSetGo := by
  unfold Obligations.ErrorsCarryZerosAndOnlyEncodersSetGo
  intro i s
  exact ⟨_, exec_eq_performRule i s, performRule_wellShaped i.opcode s.cfg i.portB i.portA⟩

end Sys2Proof.Machine
end

section
/-! PROOFS. The transport's two calls one host step at a time (spec 20_memory.md R26 to R34; 60_exceptions.md R95;
70_reset_and_hazards.md R110, R111): one equation per case of a transmit and of a receive, and what the device takes,
reads and refuses. -/

namespace Sys2Proof.Machine

/-! ### The transport's answers -/

/-- R34: a call succeeds with every answer but a failure. -/
theorem replyOk_iff (r : BusReply) : replyOk r = true ↔ ∀ reached, r ≠ .fail reached := by
  cases r <;> simp [replyOk]

/-- The next answer is the first of the script. -/
theorem nextReply_cons {s : State} {r : BusReply} {sc : List BusReply} (h : s.script = r :: sc) : nextReply s = r := by
  simp [nextReply, h]

/-- A frame's bytes do not depend on the host steps left. -/
@[simp] theorem Frame.bytes_todo (f : Frame) (s : State) (rest : List HostStep) :
    f.bytes { s with todo := rest } = f.bytes s := rfl

/-! ### Transmit -/

/-- R16: a pointer above 0x01 is that of neither register. -/
theorem ptr_outside_map {p : Byte} (h : 1 < p.toNat) : p ≠ convPtr ∧ p ≠ confPtr := by
  constructor <;> rintro rfl <;> exact absurd h (by decide)

/-- R33, U6: the device takes no write frame for another register than the configuration register. -/
theorem takeFrame_write_eq_none (c : Config) (d : Device) {p : Byte} (h : p ≠ confPtr) (hi lo : Byte) :
    d.takeFrame c [p, hi, lo] = none := by
  simp [Device.takeFrame, h]

/-- R33, U6: the device takes no pointer frame for a pointer outside the map. -/
theorem takeFrame_pointer_eq_none (c : Config) (d : Device) {p : Byte} (h0 : p ≠ convPtr) (h1 : p ≠ confPtr) :
    d.takeFrame c [p] = none := by
  simp [Device.takeFrame, h0, h1]

/-- R110: a transmit without an initialised bus handle. -/
theorem transmit_of_no_handle (f : Frame) {s : State} (hh : s.handle = false) :
    transmit f s = .refused .busHandleNotInitialised := by
  simp [transmit, hh]

/-- R33: a transmit of a frame that reaches the device and that it does not take. -/
theorem transmit_refused {f : Frame} {s : State} (hh : s.handle = true) (hr : replyReaches (nextReply s) = true)
    (hd : s.dev.takeFrame s.cfg (f.bytes s) = none) :
    transmit f s = .refused (.deviceAccessUndefined ((f.bytes s).headD 0#8)) := by
  simp [transmit, hh, hr, hd]

/-- The step that transmits a frame which the device takes when it arrives. -/
theorem step_tx_of_takeFrame {s : State} {f : Frame} {rest : List HostStep} {r : BusReply} {sc : List BusReply}
    {d : Device} (hc : s.cfg.wf = true) (hh : s.handle = true) (ht : s.todo = .tx f :: rest) (hs : s.script = r :: sc)
    (hd : s.dev.takeFrame s.cfg (f.bytes s) = some d) :
    step s = .next { s with
      todo := rest, script := sc, fresh := s.fresh + 1, busOk := replyOk r
      dev := if replyReaches r then d else s.dev
      log := s.log ++ [.transmit s.cfg.devAddr (f.bytes s) 100] } := by
  rw [step_cons hc ht, hostStep, transmit_of_takeFrame (s := { s with todo := rest }) hh hd,
    nextReply_cons (s := { s with todo := rest }) hs]
  simp only [Frame.bytes_todo, busTimeoutMs_of_wf hc]
  rw [hs, List.tail_cons]

/-- The step that transmits a frame which reaches the device and is not taken there. -/
theorem step_tx_refused {s : State} {f : Frame} {rest : List HostStep} {r : BusReply} {sc : List BusReply}
    (hc : s.cfg.wf = true) (hh : s.handle = true) (ht : s.todo = .tx f :: rest) (hs : s.script = r :: sc)
    (hr : replyReaches r = true) (hd : s.dev.takeFrame s.cfg (f.bytes s) = none) :
    step s = .refused (.deviceAccessUndefined ((f.bytes s).headD 0#8)) := by
  rw [← nextReply_cons (s := { s with todo := rest }) hs] at hr
  rw [step_cons hc ht, hostStep, transmit_refused (s := { s with todo := rest }) hh hr hd, Frame.bytes_todo]

/-! ### Receive -/

/-- R110: a receive without an initialised bus handle. -/
theorem receive_of_no_handle {s : State} (hh : s.handle = false) : receive s = .refused .busHandleNotInitialised := by
  simp [receive, hh]

/-- The step of a receive that succeeds while the pointed register reads as `v`. -/
theorem step_rx_of_read {s : State} {rest : List HostStep} {r : BusReply} {sc : List BusReply} {v : Word}
    (hc : s.cfg.wf = true) (hh : s.handle = true) (ht : s.todo = .rx :: rest) (hs : s.script = r :: sc)
    (hr : replyOk r = true) (hv : s.dev.read s.fresh = some v) :
    step s = .next { s with
      todo := rest, script := sc, fresh := s.fresh + 1, busOk := true, rxBuf := receivedBytes v r
      log := s.log ++ [.receive s.cfg.devAddr 2 100] } := by
  simp [step_cons hc ht, hostStep, receive, hh, nextReply, hs, hr, hv, busTimeoutMs_of_wf hc]

/-- R33: the step of a receive that succeeds while the device's pointer is outside the map. -/
theorem step_rx_refused {s : State} {rest : List HostStep} {r : BusReply} {sc : List BusReply}
    (hc : s.cfg.wf = true) (hh : s.handle = true) (ht : s.todo = .rx :: rest) (hs : s.script = r :: sc)
    (hr : replyOk r = true) (hv : s.dev.read s.fresh = none) :
    step s = .refused (.deviceAccessUndefined s.dev.ptr) := by
  simp [step_cons hc ht, hostStep, receive, hh, nextReply, hs, hr, hv]

/-- R34: the step of a receive that fails. -/
theorem step_rx_failed {s : State} {rest : List HostStep} {r : BusReply} {sc : List BusReply}
    (hc : s.cfg.wf = true) (hh : s.handle = true) (ht : s.todo = .rx :: rest) (hs : s.script = r :: sc)
    (hr : replyOk r = false) :
    step s = .next { s with
      todo := rest, script := sc, fresh := s.fresh + 1, busOk := false, rxBuf := []
      log := s.log ++ [.receive s.cfg.devAddr 2 100] } := by
  simp [step_cons hc ht, hostStep, receive, hh, nextReply, hs, hr, busTimeoutMs_of_wf hc]

/-! ### What the pointed register reads as -/

/-- A conversion register is not settled when any of its three conditions fails. -/
theorem Device.settled_eq_false_iff (d : Device) :
    d.settled = false ↔ d.inFlight ≠ none ∨ d.readEarly = true ∨ d.convDefined = false := by
  rw [← Bool.not_eq_true, Device.settled_iff]
  simp only [not_and_or, Bool.not_eq_false, Bool.not_eq_true, ne_eq]

/-- R27, R111: what a read of the conversion register delivers. -/
theorem Device.read_convPtr {d : Device} (hp : d.ptr = convPtr) (n : Nat) :
    ∃ v : Word, d.read n = some v ∧ (d.settled = true → v = d.conv) ∧ (d.settled = false → v = Config.freeRead n) := by
  cases hs : d.settled with
  | true => exact ⟨_, Device.read_conv hp hs n, fun _ => rfl, nofun⟩
  | false => exact ⟨_, Device.read_conv_unsettled hp hs n, nofun, fun _ => rfl⟩

/-- R27, U14: what a read of the configuration register delivers. -/
theorem Device.read_confPtr {d : Device} (hp : d.ptr = confPtr) (n : Nat) :
    ∃ v : Word, d.read n = some v ∧ v.extractLsb' 0 15 = d.conf.extractLsb' 0 15 :=
  ⟨_, Device.read_conf hp n, BitVec.extractLsb'_append_eq_right⟩

/-! ### What a configuration write leaves in the device -/

/-- R31: a write with `OS` = 1 starts the conversion of its own word. -/
theorem Device.writeConf_start (c : Config) (d : Device) {v : Word} (h : fOs v = 1#1) :
    (d.writeConf c v).inFlight = some (v, 0)
      ∧ ((d.writeConf c v).convDefined = true ↔ fMode v = c.modeSingle ∧ fDr v = c.dr1600
          ∧ (∃ t : Selection, fMux v = c.mux t) ∧ ∃ g : Fin 6, fPga v = c.pga g) := by
  rw [Device.writeConf_convDefined, Device.definedAfterWrite_start h]
  exact ⟨if_pos h, Config.describedConversion_iff c v⟩

/-- R31: a write with `OS` = 0 starts no conversion. -/
theorem Device.writeConf_keep (c : Config) (d : Device) {v : Word} (h : fOs v = 0#1) :
    (d.writeConf c v).inFlight = d.inFlight
      ∧ ((d.writeConf c v).convDefined = true ↔ d.convDefined = true ∧ d.inFlight = none ∧ fMode v = c.modeSingle) := by
  have hne : fOs v ≠ 1#1 := by rw [h]; decide
  exact ⟨if_neg hne, Device.definedAfterWrite_keep hne⟩

/-! ### The statements of 20_memory.md -/

/-- Settles O37: the device takes the frame, when it arrives, as the write of the value to the configuration register. -/
theorem configurationWriteStartsConversion : Obligations.ConfigurationWriteStartsConversion := by
  unfold Obligations.ConfigurationWriteStartsConversion
  intro s p h l rest r sc hc hh hp ht hs
  have hbytes : (Frame.write p h l).bytes s = [confPtr, h.eval s, l.eval s] := by rw [Frame.bytes, hp]; rfl
  have hstep := step_tx_of_takeFrame hc hh ht hs (by rw [hbytes]; exact takeFrame_write ..)
  rw [hbytes] at hstep
  refine ⟨if replyReaches r then s.dev.writeConf s.cfg (h.eval s ++ l.eval s) else s.dev, hstep.trans ?_,
    fun hr => ?_, ?_⟩
  · cases r <;> rfl
  · rw [if_pos ((replyReaches_iff r).mpr hr)]
    exact ⟨rfl, rfl, rfl, rfl, Device.writeConf_start s.cfg s.dev, Device.writeConf_keep s.cfg s.dev⟩
  · rintro rfl
    rfl

/-- Settles O38: by the device's pointer and by whether the call succeeds. -/
theorem receiveDeliversPointedRegister : Obligations.ReceiveDeliversPointedRegister := by
  unfold Obligations.ReceiveDeliversPointedRegister
  intro s rest r sc hc hh ht hs
  refine ⟨fun hp hr => ?_, fun hp hr => ?_, ?_⟩
  · obtain ⟨v, hread, hv⟩ : ∃ v, s.dev.read s.fresh = some v
        ∧ (s.dev.ptr = convPtr → (s.dev.settled = true → v = s.dev.conv)
          ∧ (s.dev.settled = false → v = Config.freeRead s.fresh))
        ∧ (s.dev.ptr = confPtr → v.extractLsb' 0 15 = s.dev.conf.extractLsb' 0 15) := by
      rcases hp with hp | hp
      · obtain ⟨v, hread, hv⟩ := Device.read_convPtr hp s.fresh
        exact ⟨v, hread, fun _ => hv, fun h1 => absurd (hp.symm.trans h1) (by decide)⟩
      · obtain ⟨v, hread, hv⟩ := Device.read_confPtr hp s.fresh
        exact ⟨v, hread, fun h0 => absurd (hp.symm.trans h0) (by decide), fun _ => hv⟩
    rw [Device.settled_iff, Device.settled_eq_false_iff] at hv
    refine ⟨v, _, step_rx_of_read hc hh ht hs ((replyOk_iff r).mpr hr) hread, ?_, ?_, hv⟩
    · rintro rfl; rfl
    · rintro given rfl; rfl
  · obtain ⟨h0, h1⟩ := ptr_outside_map hp
    exact step_rx_refused hc hh ht hs ((replyOk_iff r).mpr hr) (Device.read_eq_none h0 h1 _)
  · rintro ⟨reached, rfl⟩
    exact step_rx_failed hc hh ht hs rfl

/-- Settles O40: the device takes neither frame, and a call without a handle reaches no device. -/
theorem unlistedDeviceAccessIsRefused : Obligations.UnlistedDeviceAccessIsRefused := by
  unfold Obligations.UnlistedDeviceAccessIsRefused
  refine ⟨?_, ?_, replyReaches_iff, ?_⟩
  · intro s p h l rest r sc hc hh ht hs hr hp
    exact step_tx_refused hc hh ht hs hr (takeFrame_write_eq_none _ _ hp _ _)
  · intro s p rest r sc hc hh ht hs hr hp
    obtain ⟨h0, h1⟩ := ptr_outside_map hp
    exact step_tx_refused hc hh ht hs hr (takeFrame_pointer_eq_none _ _ h0 h1)
  · intro s x rest hc hh ht hx
    rw [step_cons hc ht]
    rcases hx with rfl | ⟨f, rfl⟩
    · exact receive_of_no_handle (s := { s with todo := rest }) hh
    · exact transmit_of_no_handle f (s := { s with todo := rest }) hh

end Sys2Proof.Machine
end

section
/-! PROOFS. The decoder and the encoder are inverse to each other (spec 30_encoding.md R41, R42, R54): an instruction
drives its must-be-zero fields with zero, and the operand of a narrower field is that field of the port. -/

namespace Sys2Proof

/-- R41, R42: the decoder reads every instruction back from its command word. -/
@[simp] theorem decode_encode (i : Instr) : decode (encode i) = .ok i := by
  simp only [decode, encode, cwOp_cw, cwB_cw, cwA_cw, opcodeOf_code]
  cases i with
  | compose b0 b1 => simp only [Instr.opcode, Instr.portA, Instr.portB, byteField_high, byteField_low, if_true]
  | encSe ch g => simp only [Instr.opcode, Instr.portA, Instr.portB, gainField_high, gainField_low, if_true]
  | encD01 g => simp only [Instr.opcode, Instr.portA, Instr.portB, gainField_high, gainField_low, and_self, if_true]
  | encD23 g => simp only [Instr.opcode, Instr.portA, Instr.portB, gainField_high, gainField_low, and_self, if_true]
  | scalePack r => simp only [Instr.opcode, Instr.portA, Instr.portB, codeField_high, codeField_low, and_self, if_true]
  | scaleChgv r => simp only [Instr.opcode, Instr.portA, Instr.portB, codeField_high, codeField_low, and_self, if_true]
  | _ => rfl

/-- R42: no bit of a decoded word is ignored. -/
theorem encode_of_decode_ok {w : BitVec 32} {i : Instr} (h : decode w = .ok i) : encode i = w := by
  rw [← cw_fields w] at h
  obtain ⟨hop, hb, ha⟩ := Machine.ports_of_decode_ok h
  rw [encode, hop, hb, ha, cw_fields]

/-- Settles O1, by the operation: the must-be-zero fields are zero and the operand fields are the operands. -/
theorem decodeOfEncodeIsTheInstruction : Obligations.DecodeOfEncodeIsTheInstruction := by
  unfold Obligations.DecodeOfEncodeIsTheInstruction
  exact decode_encode

/-- Settles O2: the ports that the instruction drives are the three fields of the word. -/
theorem decodedWordIsTheEncoding : Obligations.DecodedWordIsTheEncoding := by
  unfold Obligations.DecodedWordIsTheEncoding
  exact fun _ _ => encode_of_decode_ok

/-- Settles O3: each printed word is the encoding of the instruction it is printed for. -/
theorem wordsOfTheSyntaxRuleDecode : Obligations.WordsOfTheSyntaxRuleDecode := by
  unfold Obligations.WordsOfTheSyntaxRuleDecode
  have hraw : BitVec.ofInt 16 (-38) = 0xFFDA#16 := by decide
  rw [hraw]
  exact ⟨decode_encode (.frameWr 0x01#8 0xF383#16), decode_encode (.frameRd 0x00#8),
    decode_encode (.compose 0x04#8 0x70#8), decode_encode (.encSe 3#8 1#3), decode_encode (.encD01 5#3),
    decode_encode (.dec 0xF383#16), decode_encode (.align12 0x0470#16), decode_encode (.sext12 0x0FDA#16),
    decode_encode .cfgPack, decode_encode (.scalePack 71#12), decode_encode (.scaleChgi 0xFFDA#16)⟩

end Sys2Proof
end

section
/-! PROOFS. The step that presents a command word (spec 30_encoding.md R55, R56): it runs the decoded instruction, it
answers the record of the decoding procedure, and it answers the error results that R55 names. -/

namespace Sys2Proof.Machine

/-! ### The record of a word that R55 names -/

/-- R43: a gain field that is not legal is an operand above 5 on the port. -/
theorem gain_of_gainFieldOk_eq_false {g : BitVec 3} (h : gainFieldOk g = false) : 5 < (g.setWidth 16).toNat := by
  revert g; decide

/-- R56 step 3 finds the operands illegal that `Instr.wf` does (R42). -/
theorem operandIllegal_of_wf_eq_false {c : Config} {i : Instr} (h : i.wf c = false) :
    operandIllegal c i.opcode.code i.portA := by
  cases i with
  | encSe ch g => exact .inl ⟨.inl rfl, gain_of_gainFieldOk_eq_false h⟩
  | encD01 g => exact .inl ⟨.inr (.inl rfl), gain_of_gainFieldOk_eq_false h⟩
  | encD23 g => exact .inl ⟨.inr (.inr rfl), gain_of_gainFieldOk_eq_false h⟩
  | dec v =>
    refine .inr (.inr (.inr ⟨rfl, ?_⟩))
    rw [Instr.portA]
    simpa only [Instr.wf, Bool.and_eq_false_iff, Option.isSome_eq_false_iff, Option.isNone_iff_eq_none] using h
  | scaleChgi r =>
    refine .inr (.inr (.inl ⟨rfl, ?_⟩))
    rw [Instr.portA]
    simpa only [Instr.wf, rawSignedOk, Bool.and_eq_false_iff, decide_eq_false_iff_not, not_le] using h
  | _ => cases h

/-- R56 step 4: the single-ended encoder reports an invalid channel when the gain index is legal. -/
theorem perform_encSe_channelInvalid (c : Config) {b : Byte} {a : Word} (ha : a.toNat ≤ 5) (hb : 3 < b.toNat) :
    perform c 0x03#8 b a = .error .invalidChannel := by
  have hrule : perform c 0x03#8 b a = encSe c b a :=
    perform_eq_performRule c (by decide) BitVec.and_zero BitVec.and_zero
  rw [hrule, encSe_channelInvalid c (by omega) hb]

/-- R55: a word that one of the first three steps of R56 stops is answered with the error result with `st` = 4. -/
theorem answers_illegalOperand {s : State} (hc : s.cfg.wf = true) {op b : Byte} {a : Word}
    (h : 0x0E < op.toNat ∨ (b &&& mbzB op ≠ 0#8 ∨ a &&& mbzA op ≠ 0#16) ∨ operandIllegal s.cfg op a) :
    Answers s op b a ⟨0#16, 0#8, 0#1, 4#3⟩ := by
  have hr := answers_perform hc op b a
  rwa [perform_eq_illegalOperand h] at hr

/-- R64: a single-ended encoding of an invalid channel at a legal gain index. -/
theorem answers_invalidChannel {s : State} (hc : s.cfg.wf = true) {b : Byte} {a : Word} (ha : a.toNat ≤ 5)
    (hb : 3 < b.toNat) : Answers s 0x03#8 b a ⟨0#16, 0#8, 0#1, 1#3⟩ := by
  have hr := answers_perform hc 0x03#8 b a
  rwa [perform_encSe_channelInvalid s.cfg ha hb] at hr

/-! ### The statements about the step -/

/-- Settles O6: presenting a word drives the outputs with the record of the procedure. -/
theorem stepIsTheDecodingProcedure : Obligations.StepIsTheDecodingProcedure := by
  unfold Obligations.StepIsTheDecodingProcedure
  exact fun _ op b a hc => answers_perform hc op b a

/-- Settles O5: each kind of word that R55 names is stopped by a step of the procedure, and every word gets its record. -/
theorem everyWordHasAResultIllegalOnesStatusFour : Obligations.EveryWordHasAResultIllegalOnesStatusFour := by
  unfold Obligations.EveryWordHasAResultIllegalOnesStatusFour
  refine ⟨fun s op b a hc hop => answers_illegalOperand hc (.inl hop), fun s op b a hc hnone => ?_,
    fun s i hc hi => answers_illegalOperand hc (.inr (.inr (operandIllegal_of_wf_eq_false hi))),
    fun s b a hc ha hb => answers_invalidChannel hc ha hb,
    fun s op b a hc => ⟨_, answers_perform hc op b a⟩⟩
  cases h : decode (cw op b a) with
  | error e => exact answers_illegalOperand hc (illegal_of_decode_error s.cfg h)
  | ok i => exact absurd h (hnone i)

/-- Settles O4: the step presents the word, and presenting a word that decodes is performing its instruction. -/
theorem stepRunsTheDecodedInstruction : Obligations.StepRunsTheDecodedInstruction := by
  unfold Obligations.StepRunsTheDecodedInstruction
  constructor
  · intro s o bs as rest i hc ht hi
    have hpresent : step s = present o (bs.eval s) (as.eval s) { s with todo := rest } := by
      rw [step_cons hc ht]
      cases bs <;> cases as <;> rfl
    rw [hpresent, present_ok hi]
  · intro s w i hc hi
    rw [← cw_fields w] at hi
    rw [step_withFetchWord hc, present_ok hi]

end Sys2Proof.Machine
end

section
/-! PROOFS. The status codes that the outputs and the returned pair can show (spec 30_encoding.md R53; 60_exceptions.md
R95, R96): the block reports `InvalidChannel` and `IllegalOperand` only, and a sequence adds `BusError`. -/

namespace Sys2Proof.Machine

/-! ### The records of the block -/

/-- R53, R95, R96: the codes the block may show on `st`. -/
abbrev Result.StatusLegal (r : Result) : Prop := r.st = 0#3 ∨ r.st = 1#3 ∨ r.st = 4#3

theorem Result.done_statusLegal (y : Word) (x : Byte) : (Result.done y x).StatusLegal := .inl rfl

theorem Result.encoded_statusLegal (y : Word) : (Result.encoded y).StatusLegal := .inl rfl

theorem Result.invalidChannel_statusLegal : (Result.error .invalidChannel).StatusLegal := .inr (.inl rfl)

theorem Result.illegalOperand_statusLegal : (Result.error .illegalOperand).StatusLegal := .inr (.inr rfl)

theorem encSe_statusLegal (c : Config) (b : Byte) (a : Word) : (encSe c b a).StatusLegal := by
  unfold encSe
  split
  · exact Result.illegalOperand_statusLegal
  · split
    · exact Result.invalidChannel_statusLegal
    · exact Result.encoded_statusLegal _

theorem encPairing_statusLegal (c : Config) (m : BitVec 3) (a : Word) : (encPairing c m a).StatusLegal := by
  unfold encPairing
  split
  · exact Result.illegalOperand_statusLegal
  · exact Result.encoded_statusLegal _

theorem dec_statusLegal (c : Config) (a : Word) : (dec c a).StatusLegal := by
  unfold dec
  split
  · exact Result.done_statusLegal _ _
  · exact Result.illegalOperand_statusLegal

theorem scaleUnsigned_statusLegal (num den : Nat) (a : Word) : (scaleUnsigned num den a).StatusLegal := by
  unfold scaleUnsigned
  split
  · exact Result.illegalOperand_statusLegal
  · exact Result.done_statusLegal _ _

theorem scaleChgi_statusLegal (c : Config) (a : Word) : (scaleChgi c a).StatusLegal := by
  unfold scaleChgi
  split
  · exact Result.illegalOperand_statusLegal
  · exact Result.done_statusLegal _ _

theorem performRule_statusLegal (o : Opcode) (c : Config) (b : Byte) (a : Word) :
    (performRule c o.code b a).StatusLegal := by
  cases o with
  | encSe => exact encSe_statusLegal c b a
  | encD01 => exact encPairing_statusLegal c _ a
  | encD23 => exact encPairing_statusLegal c _ a
  | dec => exact dec_statusLegal c a
  | cfgPack => exact Result.encoded_statusLegal _
  | cfgChgv => exact Result.encoded_statusLegal _
  | cfgChgi => exact Result.encoded_statusLegal _
  | scalePack => exact scaleUnsigned_statusLegal _ _ a
  | scaleChgv => exact scaleUnsigned_statusLegal _ _ a
  | scaleChgi => exact scaleChgi_statusLegal c a
  | _ => exact Result.done_statusLegal _ _

/-- R53: the procedure answers every command word with a legal code. -/
theorem perform_statusLegal (c : Config) (op b : Byte) (a : Word) : (perform c op b a).StatusLegal := by
  cases ho : opcodeOf op with
  | none =>
    rw [perform_eq_illegalOperand (.inl ((opcodeOf_eq_none_iff op).mp ho))]
    exact Result.illegalOperand_statusLegal
  | some o =>
    obtain rfl := code_of_opcodeOf ho
    unfold perform
    split_ifs
    · exact Result.illegalOperand_statusLegal
    · exact Result.illegalOperand_statusLegal
    · exact Result.illegalOperand_statusLegal
    · exact Result.invalidChannel_statusLegal
    · exact performRule_statusLegal o c b a

/-! ### The invariant -/

/-- Only the outputs and the returned pair matter. -/
theorem StatusesLegal.congr {s t : State} (hs : StatusesLegal s) (hout : t.out = s.out) (hret : t.ret = s.ret) :
    StatusesLegal t := by
  rw [StatusesLegal, hout, hret]
  exact hs

/-- A sequence returns `OK`, `BusError`, or a code that the outputs or the last pair already showed. -/
theorem ReturnStatus.legal {s : State} {k : BitVec 3} (hk : ReturnStatus s k) (hs : StatusesLegal s) :
    k = 0#3 ∨ k = 1#3 ∨ k = 2#3 ∨ k = 4#3 := by
  obtain ⟨hout, hret⟩ := hs
  rcases hk with rfl | rfl | rfl | rfl
  · exact .inl rfl
  · exact .inr (.inr (.inl rfl))
  · exact hout.imp_right (Or.imp_right .inr)
  · exact hret

/-- Only a presented command word writes the outputs, and only a `RETURN` the returned pair. -/
theorem HostEffect.statusesLegal {s t : State} (h : HostEffect s t) (hs : StatusesLegal s) : StatusesLegal t := by
  have ⟨hout, hret⟩ := hs
  cases h with
  | presented op b a => exact ⟨perform_statusLegal s.cfg op b a, hret⟩
  | returned v hk => exact ⟨hout, hk.legal hs⟩
  | transmitted h =>
    obtain ⟨-, d, rfl, -, -⟩ := transmit_next h
    exact hs
  | received h =>
    obtain ⟨-, bs, rfl, -, -⟩ := receive_next h
    exact hs
  | waited n =>
    obtain ⟨-, -, -, -, hsameOut, -, -, -, hsameRet, -⟩ := waitFor_frame n s
    exact hs.congr hsameOut hsameRet
  | started q => exact hs
  | passed => exact hs

/-- Settles O13: a step is the effect of one host step. -/
theorem everyStepKeepsStatusesLegal : Obligations.EveryStepKeepsStatusesLegal := by
  unfold Obligations.EveryStepKeepsStatusesLegal
  intro s t hs h
  obtain ⟨-, x, rest, -, hx⟩ := step_next h
  exact (hostStep_effect hx).statusesLegal hs

/-- Settles O14: both codes are 0 at reset. -/
theorem resetStatusesAreLegal : Obligations.ResetStatusesAreLegal := by
  unfold Obligations.ResetStatusesAreLegal
  exact ⟨.inl rfl, .inl rfl⟩

end Sys2Proof.Machine
end

section
/-! PROOFS. The pointer frame on the bus (spec 30_encoding.md R52 (b), 40_wire_frames.md R61). -/

namespace Sys2Proof.Machine

/-- Settles O53: the device takes the frame, when it arrives, as the start of a read. -/
theorem pointerFrameSetsThePointer : Obligations.PointerFrameSetsThePointer := by
  unfold Obligations.PointerFrameSetsThePointer
  intro s p rest r sc hc hh hp ht hs
  have hstep := step_tx_of_takeFrame hc hh ht hs (takeFrame_pointer hp)
  refine ⟨if replyReaches r then s.dev.point (p.eval s) else s.dev, hstep.trans ?_, fun hr => ?_, ?_⟩
  · cases r <;> rfl
  · rw [if_pos ((replyReaches_iff r).mpr hr)]
    exact ⟨rfl, rfl, rfl, rfl, rfl, Option.isSome_iff_ne_none⟩
  · rintro rfl
    rfl

end Sys2Proof.Machine
end

section
/-! PROOFS. The refusal of an ill-formed `Config` (spec 30_encoding.md R50, 43_calibration.md R80). -/

namespace Sys2Proof.Machine

/-- R4, R80, U18: under an ill-formed `Config` every step is refused. -/
theorem step_of_config_illFormed {s : State} (h : s.cfg.wf = false) : step s = .refused .configNotWellFormed :=
  if_neg (by simp [h])

/-- Settles O16: the conditions on the calibration constants are those of `Config.scalerWf`, and the codes of a
well-formed `Config` are injective. -/
theorem illFormedConfigIsRefused : Obligations.IllFormedConfigIsRefused := by
  unfold Obligations.IllFormedConfigIsRefused
  refine ⟨fun s => step_of_config_illFormed, hardwareConfig_wf, fun c hc => ?_⟩
  obtain ⟨⟨-, hscaler⟩, -⟩ : (c.codesWf = true ∧ c.scalerWf = true) ∧ c.fixedWf = true := by
    simpa only [Config.wf, Bool.and_eq_true] using hc
  have hmux : ∀ t u : Selection, c.mux t = c.mux u → t = u := fun t u => Config.mux_inj hc
  have hpga : ∀ g k : Fin 6, c.pga g = c.pga k → g = k := fun g k => Config.pga_inj hc
  simpa only [Config.scalerWf, Bool.and_eq_true, decide_eq_true_eq, and_assoc] using And.intro hscaler ⟨hmux, hpga⟩

end Sys2Proof.Machine
end

section
/-! PROOFS. The rows of spec/opcode_table.json (spec INDEX.md: a command word `w` selects the row when `w & mask = match`):
the words that decode to an operation are exactly those of its row. -/

namespace Sys2Proof

open Machine

/-- Every row fixes the whole `op` field, and in `b` and `a` the bits that must be zero. -/
theorem Opcode.mask_fields (o : Opcode) : o.mask = cw 0xFF#8 (cwB o.mask) (cwA o.mask) := by cases o <;> rfl

/-- A word lies in a row when its `op` is the row's and the bits of the operands under the mask are zero. -/
theorem cw_and_mask_iff (o : Opcode) (op b : Byte) (a : Word) :
    cw op b a &&& o.mask = o.pattern ↔ op = o.code ∧ b &&& cwB o.mask = 0#8 ∧ a &&& cwA o.mask = 0#16 := by
  rw [o.mask_fields, cw_and, and_FF, ← o.mask_fields, Opcode.pattern]
  constructor
  · exact cw_inj
  · rintro ⟨hop, hb, ha⟩
    rw [hop, hb, ha]

/-- The encoding of an instruction lies in the row of its operation. -/
theorem encode_and_mask (i : Instr) : encode i &&& i.opcode.mask = i.opcode.pattern := by
  cases i with
  | frameWr p v => exact Laws.RowMask.frameWr p v
  | frameRd p => exact Laws.RowMask.frameRd p
  | compose b0 b1 => exact Laws.RowMask.compose b0 b1
  | encSe ch g => exact Laws.RowMask.encSe ch g
  | encD01 g => exact Laws.RowMask.encD01 g
  | encD23 g => exact Laws.RowMask.encD23 g
  | dec v => exact Laws.RowMask.dec v
  | align12 v => exact Laws.RowMask.align12 v
  | sext12 v => exact Laws.RowMask.sext12 v
  | cfgPack => exact Laws.RowMask.cfgPack
  | cfgChgv => exact Laws.RowMask.cfgChgv
  | cfgChgi => exact Laws.RowMask.cfgChgi
  | scalePack r => exact Laws.RowMask.scalePack r
  | scaleChgv r => exact Laws.RowMask.scaleChgv r
  | scaleChgi r => exact Laws.RowMask.scaleChgi r

/-- The must-be-zero fields that the decoder checks for an operation are the operand bits under the mask of its row. -/
theorem exists_decode_of_maskedBits_zero (o : Opcode) {b : Byte} {a : Word} (hb : b &&& cwB o.mask = 0#8)
    (ha : a &&& cwA o.mask = 0#16) : ∃ i, decode (cw o.code b a) = .ok i ∧ i.opcode = o := by
  simp only [decode, cwOp_cw, cwB_cw, cwA_cw, opcodeOf_code]
  have hbZero : b &&& 0xFF#8 = 0#8 → b = 0#8 := (and_FF b).symm.trans
  have haZero : a &&& 0xFFFF#16 = 0#16 → a = 0#16 := (and_FFFF a).symm.trans
  cases o with
  | frameWr => exact ⟨_, rfl, rfl⟩
  | frameRd => exact ⟨_, if_pos (haZero ha), rfl⟩
  | compose => exact ⟨_, if_pos ((and_FF00 a).mp ha), rfl⟩
  | encSe => exact ⟨_, if_pos ((and_FFF8 a).mp ha), rfl⟩
  | encD01 => exact ⟨_, if_pos ⟨hbZero hb, (and_FFF8 a).mp ha⟩, rfl⟩
  | encD23 => exact ⟨_, if_pos ⟨hbZero hb, (and_FFF8 a).mp ha⟩, rfl⟩
  | dec => exact ⟨_, if_pos (hbZero hb), rfl⟩
  | align12 => exact ⟨_, if_pos (hbZero hb), rfl⟩
  | sext12 => exact ⟨_, if_pos (hbZero hb), rfl⟩
  | cfgPack => exact ⟨_, if_pos ⟨hbZero hb, haZero ha⟩, rfl⟩
  | cfgChgv => exact ⟨_, if_pos ⟨hbZero hb, haZero ha⟩, rfl⟩
  | cfgChgi => exact ⟨_, if_pos ⟨hbZero hb, haZero ha⟩, rfl⟩
  | scalePack => exact ⟨_, if_pos ⟨hbZero hb, (and_F000 a).mp ha⟩, rfl⟩
  | scaleChgv => exact ⟨_, if_pos ⟨hbZero hb, (and_F000 a).mp ha⟩, rfl⟩
  | scaleChgi => exact ⟨_, if_pos (hbZero hb), rfl⟩

/-- The decoder reads an operation from exactly the words of its row. -/
theorem selectsRow (o : Opcode) : SelectsRow o o.mask o.pattern := by
  intro w
  constructor
  · rintro ⟨i, hi, rfl⟩
    rw [← encode_of_decode_ok hi]
    exact encode_and_mask i
  · intro h
    rw [← cw_fields w] at h ⊢
    obtain ⟨hop, hb, ha⟩ := (cw_and_mask_iff o _ _ _).mp h
    rw [hop]
    exact exists_decode_of_maskedBits_zero o hb ha

end Sys2Proof
end

section
/-! PROOFS. The wire frames (spec 40_wire_frames.md R60 to R62): what the three operations answer, and the big-endian byte
order that COMPOSE and the data part of FRAME_WR share (20_memory.md R28). -/

namespace Sys2Proof

/-- R28: of two bytes put together the first counts 256. -/
theorem toNat_append_bytes (h l : Byte) : (h ++ l : BitVec 16).toNat = 256 * h.toNat + l.toNat := by
  calc (h ++ l : BitVec (8 + 8)).toNat
      = h.toNat <<< 8 ||| l.toNat := BitVec.toNat_append ..
    _ = h.toNat <<< 8 + l.toNat := (Nat.shiftLeft_add_eq_or_of_lt l.isLt _).symm
    _ = 256 * h.toNat + l.toNat := by rw [Nat.shiftLeft_eq, Nat.mul_comm]

namespace Machine

/-- The step that presents the ports an instruction drives answers the record of its operation's rule. -/
theorem answers_instr {s : State} (hc : s.cfg.wf = true) (i : Instr) :
    Answers s i.opcode.code i.portB i.portA (performRule s.cfg i.opcode.code i.portB i.portA) := by
  rw [answers_iff hc, present_ok (decode_encode i), exec_eq_performRule, State.setIn_cfg]

/-- R62: COMPOSE of two received bytes puts the first one before the second. -/
theorem compose_setWidth (b0 b1 : Byte) : compose b0 (b1.setWidth 16) = ⟨b0 ++ b1, 0#8, 0#1, 0#3⟩ := by
  rw [compose, byteField_low]
  rfl

/-- R62: COMPOSE changes the outputs alone. -/
theorem exec_compose (b0 b1 : Byte) (s : State) :
    exec (.compose b0 b1) s = .next (s.setOut ⟨b0 ++ b1, 0#8, 0#1, 0#3⟩) := by
  rw [← compose_setWidth]
  rfl

/-- Settles O18: the record of FRAME_WR holds its two operands, and the frame is read off that record. -/
theorem frameWrLaysOutPointerAndValue : Obligations.FrameWrLaysOutPointerAndValue := by
  unfold Obligations.FrameWrLaysOutPointerAndValue
  refine ⟨selectsRow .frameWr, fun s b a => ⟨rfl, ?_, fun hc => ?_, rfl⟩⟩
  · exact exec_eq_performRule (.frameWr b a) s
  · exact answers_instr hc (.frameWr b a)

/-- Settles O19: the record of FRAME_RD holds its pointer, and step 2 of R56 stops a word whose `a` is not zero. -/
theorem frameRdLaysOutPointer : Obligations.FrameRdLaysOutPointer := by
  unfold Obligations.FrameRdLaysOutPointer
  refine ⟨selectsRow .frameRd, fun s b => ⟨rfl, ?_, fun hc => ?_, fun a hc ha => ?_, rfl⟩⟩
  · exact exec_eq_performRule (.frameRd b) s
  · exact answers_instr hc (.frameRd b)
  · have hmbz : a &&& mbzA 0x01#8 ≠ 0#16 := fun h => ha ((and_FFFF a).symm.trans h)
    exact answers_illegalOperand hc (.inr (.inl (.inr hmbz)))

/-- Settles O20: the value is the two bytes in the order received; step 2 of R56 stops a word whose `a[15:8]` is not
zero. -/
theorem composeIsBigEndian : Obligations.ComposeIsBigEndian := by
  unfold Obligations.ComposeIsBigEndian
  refine ⟨selectsRow .compose, fun s b0 b1 => ⟨⟨b0 ++ b1, toNat_append_bytes b0 b1, ?_, fun hc => ?_⟩,
    fun a hc ha => ?_, fun v => ?_⟩⟩
  · exact exec_compose b0 b1 s
  · rw [← compose_setWidth]
    exact answers_instr hc (.compose b0 b1)
  · have hmbz : a &&& mbzA 0x02#8 ≠ 0#16 := mt (and_FF00 a).mp ha
    exact answers_illegalOperand hc (.inr (.inl (.inr hmbz)))
  · rw [exec_compose, append_extract_bytes]

end Machine

end Sys2Proof
end

section
/-! PROOFS. The fields of an assembled configuration value (spec 30_encoding.md R45, 41_config_codec.md R63): `cfgword`
appends six fields, and each slice of R45 skips the fields below its own. -/

namespace Sys2Proof

/-! ### The slices of `cfgword` -/

@[simp] theorem fOs_cfgword (c : Config) (m : BitVec 3) (g : Fin 6) : fOs (cfgword c m g) = c.osStart := by
  simp (disch := decide) only [fOs, cfgword, BitVec.extractLsb'_append_eq_of_le, Nat.reduceSub,
    BitVec.extractLsb'_eq_self]

@[simp] theorem fMux_cfgword (c : Config) (m : BitVec 3) (g : Fin 6) : fMux (cfgword c m g) = m := by
  simp (disch := decide) only [fMux, cfgword, BitVec.extractLsb'_append_eq_of_le, Nat.reduceSub,
    BitVec.extractLsb'_append_eq_right]

@[simp] theorem fPga_cfgword (c : Config) (m : BitVec 3) (g : Fin 6) : fPga (cfgword c m g) = c.pga g := by
  simp (disch := decide) only [fPga, cfgword, BitVec.extractLsb'_append_eq_of_le, Nat.reduceSub,
    BitVec.extractLsb'_append_eq_right]

@[simp] theorem fMode_cfgword (c : Config) (m : BitVec 3) (g : Fin 6) : fMode (cfgword c m g) = c.modeSingle := by
  simp (disch := decide) only [fMode, cfgword, BitVec.extractLsb'_append_eq_of_le, Nat.reduceSub,
    BitVec.extractLsb'_append_eq_right]

@[simp] theorem fDr_cfgword (c : Config) (m : BitVec 3) (g : Fin 6) : fDr (cfgword c m g) = c.dr1600 := by
  simp (disch := decide) only [fDr, cfgword, BitVec.extractLsb'_append_eq_of_le, Nat.reduceSub,
    BitVec.extractLsb'_append_eq_right]

@[simp] theorem fComp_cfgword (c : Config) (m : BitVec 3) (g : Fin 6) : fComp (cfgword c m g) = c.compDefault :=
  BitVec.extractLsb'_append_eq_right

/-- R46: a well-formed `Config` starts a conversion with a 1. -/
theorem osStart_of_wf {c : Config} (h : c.wf = true) : c.osStart = 1#1 := by
  simp only [Config.wf, Config.fixedWf, Bool.and_eq_true, decide_eq_true_eq] at h
  exact h.2.1

/-- R64: the start bit keeps an assembled value from being zero. -/
theorem cfgword_ne_zero {c : Config} (h : c.wf = true) (m : BitVec 3) (g : Fin 6) : cfgword c m g ≠ 0#16 := by
  intro hz
  have hos : c.osStart = fOs 0#16 := by rw [← hz, fOs_cfgword]
  rw [osStart_of_wf h] at hos
  exact absurd hos (by decide)

/-- R63 under the codes of R46 to R49: a constant, the multiplexer code and the gain index. -/
theorem cfgword_hardwareConfig (m : BitVec 3) (g : Fin 6) :
    cfgword hardwareConfig m g = 0x8183#16 ||| (m.setWidth 16 <<< 12) ||| (BitVec.ofNat 16 g.val <<< 9) := by
  revert m g; decide

/-- Settles O21: the six slices, the closed form, and the table as its values at six codes and six indices. -/
theorem configurationWordHasItsFields : Obligations.ConfigurationWordHasItsFields := by
  unfold Obligations.ConfigurationWordHasItsFields
  refine ⟨fun c m g => ?_, cfgword_hardwareConfig, ?_⟩
  · exact ⟨fOs_cfgword c m g, fMux_cfgword c m g, fPga_cfgword c m g, fMode_cfgword c m g, fDr_cfgword c m g,
      fComp_cfgword c m g⟩
  · simp only [cfgword_hardwareConfig]
    decide

end Sys2Proof
end

section
/-! PROOFS. The encoders of a selection (spec 41_config_codec.md R64 to R66): what `ENC_SE`, `ENC_D01` and `ENC_D23`
answer for legal operands and for the two errors. -/

namespace Sys2Proof.Machine

/-! ### An instruction and the command word that names it -/

/-- The rule of the operation, on the ports that an instruction drives, gives what the instruction answers when it is
performed and what its command word answers when it is presented. -/
theorem exec_and_answers {s : State} {i : Instr} {op b : Byte} {a : Word} {r : Result} (hop : i.opcode.code = op)
    (hb : i.portB = b) (ha : i.portA = a) (hr : performRule s.cfg op b a = r) :
    exec i s = .next (s.setOut r) ∧ (s.cfg.wf = true → Answers s op b a r) := by
  subst hop hb ha hr
  exact ⟨exec_eq_performRule i s, fun hc => answers_instr hc i⟩

/-- R42: an operation without `b` refuses every `b` but zero. -/
theorem answers_illegal_b {s : State} (hc : s.cfg.wf = true) {op b : Byte} (a : Word) (hop : mbzB op = 0xFF#8)
    (hb : b ≠ 0#8) : Answers s op b a ⟨0#16, 0#8, 0#1, 4#3⟩ := by
  refine answers_illegalOperand hc (.inr (.inl (.inl ?_)))
  rwa [hop, and_FF]

/-! ### The gain operand -/

/-- R43: a gain index on the port. -/
theorem gainPort_ofNat (g : Fin 6) : (BitVec.ofNat 3 g.val).setWidth 16 = BitVec.ofNat 16 g.val := by
  revert g; decide

theorem toNat_gainPort (g : BitVec 3) : (g.setWidth 16).toNat = g.toNat := BitVec.toNat_setWidth_of_le (by decide)

/-! ### The rules on legal operands -/

theorem encSe_ofNat (c : Config) (ch : Fin 4) (g : Fin 6) :
    encSe c (BitVec.ofNat 8 ch.val) (BitVec.ofNat 16 g.val) = .encoded (cfgword c (c.muxSe ch) g) := by
  simp only [encSe, gainIndex_ofNat, channelNumber_ofNat]

theorem encPairing_ofNat (c : Config) (m : BitVec 3) (g : Fin 6) :
    encPairing c m (BitVec.ofNat 16 g.val) = .encoded (cfgword c m g) := by
  simp only [encPairing, gainIndex_ofNat]

/-! ### The three encoders on legal operands -/

/-- R64. -/
theorem encSe_encodes (s : State) (ch : Fin 4) (g : Fin 6) :
    exec (.encSe (BitVec.ofNat 8 ch.val) (BitVec.ofNat 3 g.val)) s
        = .next (s.setOut ⟨cfgword s.cfg (s.cfg.muxSe ch) g, 0#8, 1#1, 0#3⟩)
      ∧ (s.cfg.wf = true → Answers s 0x03#8 (BitVec.ofNat 8 ch.val) (BitVec.ofNat 16 g.val)
          ⟨cfgword s.cfg (s.cfg.muxSe ch) g, 0#8, 1#1, 0#3⟩) :=
  exec_and_answers rfl rfl (gainPort_ofNat g) (encSe_ofNat s.cfg ch g)

/-- R65. -/
theorem encD01_encodes (s : State) (g : Fin 6) :
    exec (.encD01 (BitVec.ofNat 3 g.val)) s = .next (s.setOut ⟨cfgword s.cfg s.cfg.muxD01 g, 0#8, 1#1, 0#3⟩)
      ∧ (s.cfg.wf = true →
          Answers s 0x04#8 0#8 (BitVec.ofNat 16 g.val) ⟨cfgword s.cfg s.cfg.muxD01 g, 0#8, 1#1, 0#3⟩) :=
  exec_and_answers rfl rfl (gainPort_ofNat g) (encPairing_ofNat s.cfg _ g)

/-- R66. -/
theorem encD23_encodes (s : State) (g : Fin 6) :
    exec (.encD23 (BitVec.ofNat 3 g.val)) s = .next (s.setOut ⟨cfgword s.cfg s.cfg.muxD23 g, 0#8, 1#1, 0#3⟩)
      ∧ (s.cfg.wf = true →
          Answers s 0x05#8 0#8 (BitVec.ofNat 16 g.val) ⟨cfgword s.cfg s.cfg.muxD23 g, 0#8, 1#1, 0#3⟩) :=
  exec_and_answers rfl rfl (gainPort_ofNat g) (encPairing_ofNat s.cfg _ g)

/-! ### The errors -/

/-- R43: an encoder refuses a gain operand above 5. -/
theorem answers_gainReserved {s : State} (hc : s.cfg.wf = true) {op : Byte}
    (hop : op = 0x03#8 ∨ op = 0x04#8 ∨ op = 0x05#8) (b : Byte) {a : Word} (ha : 5 < a.toNat) :
    Answers s op b a ⟨0#16, 0#8, 0#1, 4#3⟩ :=
  answers_illegalOperand hc (.inr (.inr (.inl ⟨hop, ha⟩)))

/-- R65, R66: a pairing has two operands that can be wrong, and answers the same for both. -/
theorem answers_pairing_illegal {s : State} (hc : s.cfg.wf = true) {op b : Byte} {a : Word}
    (hop : op = 0x04#8 ∨ op = 0x05#8) (h : b ≠ 0#8 ∨ 5 < a.toNat) : Answers s op b a ⟨0#16, 0#8, 0#1, 4#3⟩ := by
  have hmbz : mbzB op = 0xFF#8 := by rcases hop with rfl | rfl <;> rfl
  rcases h with hb | ha
  · exact answers_illegal_b hc a hmbz hb
  · exact answers_gainReserved hc (.inr hop) b ha

/-- Settles O22: the rule on legal operands, the start bit, and the two errors in the order of R98. -/
theorem encSeEncodesSingleEndedChannel : Obligations.EncSeEncodesSingleEndedChannel := by
  unfold Obligations.EncSeEncodesSingleEndedChannel
  refine ⟨selectsRow .encSe, fun s => ⟨fun ch g => ?_, fun b a hc ha => ?_, fun b a hc ha hb => ?_, fun b g hg => ?_,
    fun b g hg hb => ?_⟩⟩
  · obtain ⟨hexec, hans⟩ := encSe_encodes s ch g
    exact ⟨hexec, hans, fun hc => cfgword_ne_zero hc _ g⟩
  · exact answers_gainReserved hc (.inl rfl) b ha
  · exact answers_invalidChannel hc ha hb
  · rw [← toNat_gainPort] at hg
    exact (exec_and_answers (i := .encSe b g) rfl rfl rfl (encSe_gainReserved s.cfg b hg)).1
  · rw [← toNat_gainPort] at hg
    exact (exec_and_answers (i := .encSe b g) rfl rfl rfl (encSe_channelInvalid s.cfg (Nat.not_lt.mpr hg) hb)).1

/-- Settles O23: the rule of a pairing with the code of channel 0 minus channel 1. -/
theorem encD01EncodesChannelZeroMinusOne : Obligations.EncD01EncodesChannelZeroMinusOne := by
  unfold Obligations.EncD01EncodesChannelZeroMinusOne
  refine ⟨selectsRow .encD01, fun s => ⟨encD01_encodes s, fun b a hc h => ?_, fun g hg => ?_⟩⟩
  · exact answers_pairing_illegal hc (.inl rfl) h
  · rw [← toNat_gainPort] at hg
    exact (exec_and_answers (i := .encD01 g) rfl rfl rfl (encPairing_gainReserved s.cfg _ hg)).1

/-- Settles O24: the rule of a pairing with the code of channel 2 minus channel 3. -/
theorem encD23EncodesChannelTwoMinusThree : Obligations.EncD23EncodesChannelTwoMinusThree := by
  unfold Obligations.EncD23EncodesChannelTwoMinusThree
  refine ⟨selectsRow .encD23, fun s => ⟨encD23_encodes s, fun b a hc h => ?_, fun g hg => ?_⟩⟩
  · exact answers_pairing_illegal hc (.inr rfl) h
  · rw [← toNat_gainPort] at hg
    exact (exec_and_answers (i := .encD23 g) rfl rfl rfl (encPairing_gainReserved s.cfg _ hg)).1

end Sys2Proof.Machine
end

section
/-! PROOFS. `DEC` (spec 41_config_codec.md R67) and its round trip with the encoders (R68): the multiplexer and gain
codes that an encoder puts into its word are those that `DEC` looks up, and a well-formed `Config` repeats none. -/

namespace Sys2Proof

/-- A slice of a slice is a slice. -/
theorem extractLsb'_of_extractLsb' {w : Nat} (v : BitVec w) (i n : Nat) {j k : Nat} (h : j + k ≤ n) :
    (v.extractLsb' i n).extractLsb' j k = v.extractLsb' (i + j) k := by
  ext l hl
  simp [show j + l < n by omega, Nat.add_assoc]

/-- R67: bits 14:9 are the two fields that `DEC` reads. -/
theorem codeFields_eq_of_bits {v w : Word} (h : w.extractLsb' 9 6 = v.extractLsb' 9 6) :
    fMux w = fMux v ∧ fPga w = fPga v := by
  have hfield {j : Nat} (hj : j + 3 ≤ 6) : w.extractLsb' (9 + j) 3 = v.extractLsb' (9 + j) 3 := by
    rw [← extractLsb'_of_extractLsb' w 9 6 hj, h, extractLsb'_of_extractLsb' v 9 6 hj]
  exact ⟨hfield (j := 3) (by decide), hfield (j := 0) (by decide)⟩

namespace Machine

/-- R67 for the codes of a selection and of a gain index. -/
theorem dec_of_codes {c : Config} (hc : c.wf = true) {v : Word} {t : Selection} {g : Fin 6} (hm : fMux v = c.mux t)
    (hp : fPga v = c.pga g) : dec c v = .done (BitVec.ofNat 16 g.val) t.id := by
  simp only [dec, hm, hp, Config.selectionOf_mux hc, Config.gainOf_pga hc]

/-- R67: only the two fields matter. -/
theorem dec_congr (c : Config) {v w : Word} (hm : fMux w = fMux v) (hp : fPga w = fPga v) : dec c w = dec c v := by
  simp only [dec, hm, hp]

theorem exec_dec (v : Word) (s : State) : exec (.dec v) s = .next (s.setOut (dec s.cfg v)) := rfl

/-- Settles O25: the value is looked up by its two fields, and a non-zero `b` is stopped before. -/
theorem decRecoversSelectionAndGain : Obligations.DecRecoversSelectionAndGain := by
  unfold Obligations.DecRecoversSelectionAndGain
  refine ⟨selectsRow .dec, fun s v hc => ⟨fun t g hm hp => ?_, fun h => ?_, fun b hb => ?_, fun w hw => ?_⟩⟩
  · obtain ⟨hexec, hans⟩ := exec_and_answers (i := .dec v) rfl rfl rfl (dec_of_codes hc hm hp)
    exact ⟨hexec, hans hc⟩
  · have hnone := h.imp Config.selectionOf_eq_none Config.gainOf_eq_none
    obtain ⟨hexec, hans⟩ := exec_and_answers (i := .dec v) rfl rfl rfl (dec_unrecognised hnone)
    exact ⟨hexec, hans hc⟩
  · exact answers_illegal_b hc v rfl hb
  · obtain ⟨hm, hp⟩ := codeFields_eq_of_bits hw
    rw [exec_dec, exec_dec, dec_congr s.cfg hm hp]

/-- R68: `DEC` of the word assembled for a selection and a gain index. -/
theorem exec_dec_cfgword {s : State} (hc : s.cfg.wf = true) (t : Selection) (g : Fin 6) :
    exec (.dec (cfgword s.cfg (s.cfg.mux t) g)) s = .next (s.setOut ⟨BitVec.ofNat 16 g.val, t.id, 0#1, 0#3⟩) := by
  rw [exec_dec, dec_of_codes hc (fMux_cfgword ..) (fPga_cfgword ..)]
  rfl

/-- Settles O26: each encoder answers the word of its selection, and `DEC` looks the two codes up again. -/
theorem encodeThenDecRoundTrip : Obligations.EncodeThenDecRoundTrip := by
  unfold Obligations.EncodeThenDecRoundTrip
  intro s t g i hc hi
  have hencode : exec i s = .next (s.setOut ⟨cfgword s.cfg (s.cfg.mux t) g, 0#8, 1#1, 0#3⟩) := by
    subst hi
    cases t with
    | se ch => exact (encSe_encodes s ch g).1
    | d01 => exact (encD01_encodes s g).1
    | d23 => exact (encD23_encodes s g).1
  exact ⟨_, hencode, rfl, exec_dec_cfgword (s := s.setOut _) hc t g⟩

end Machine

end Sys2Proof
end

section
/-! PROOFS. `ALIGN12` and `SEXT12` (spec 42_result_align_sext.md R69 to R71): on a code of 12 bits `SEXT12` is the
sign-extension of its lower twelve bits, and the lower twelve bits of `ALIGN12` are the upper twelve of its operand, so
the two together are an arithmetic shift. -/

namespace Sys2Proof

/-! ### The upper twelve bits of a word -/

/-- A logical shift by 4 leaves the upper twelve bits, with zeros above them. -/
theorem ushiftRight_four (v : Word) : v >>> 4 = (v.extractLsb' 4 12).setWidth 16 := by
  apply BitVec.eq_of_toNat_eq
  rw [BitVec.toNat_setWidth_of_le (by decide), BitVec.extractLsb'_toNat, BitVec.toNat_ushiftRight]
  omega

/-- An arithmetic shift by 4 leaves the upper twelve bits, sign-extended. -/
theorem sshiftRight_four (v : Word) : v.sshiftRight 4 = (v.extractLsb' 4 12).signExtend 16 := by
  ext i hi
  rw [BitVec.getElem_sshiftRight, BitVec.getElem_signExtend]
  by_cases h : i < 12
  · simp [h, show 4 + i < 16 by omega]
  · simp [h, show ¬ 4 + i < 16 by omega, BitVec.msb_eq_getLsbD_last]

/-- R71: the arithmetic shift by 4 is division by 16 rounded down. -/
theorem toInt_sshiftRight_four (v : Word) : (v.sshiftRight 4).toInt = Int.floor ((v.toInt : ℚ) / 16) := by
  calc (v.sshiftRight 4).toInt
      = v.toInt >>> (4 : ℕ) := BitVec.toInt_sshiftRight
    _ = v.toInt / (16 : ℕ) := Int.shiftRight_eq_div_pow v.toInt 4
    _ = Int.floor ((v.toInt : ℚ) / 16) := (Rat.floor_intCast_div_natCast v.toInt 16).symm

/-! ### The sign-extension of a code -/

/-- A code is negative above 0x07FF, and then its sign-extension puts four ones before it. -/
theorem signExtend_code (r : BitVec 12) :
    r.signExtend 16 = if 0x07FF < r.toNat then 0xF#4 ++ r else r.setWidth 16 := by
  have hmsb : r.msb = decide (0x07FF < r.toNat) := BitVec.msb_eq_decide r
  split
  next h =>
    rw [BitVec.signExtend_eq_append_of_le (by decide), hmsb, if_pos (decide_eq_true h)]
    rfl
  next h => exact BitVec.signExtend_eq_setWidth_of_msb_false (hmsb.trans (decide_eq_false h))

/-- A word up to 0x0FFF is its lower twelve bits, zero-extended. -/
theorem setWidth_low12 {v : Word} (h : v.toNat ≤ 0x0FFF) : (v.extractLsb' 0 12).setWidth 16 = v := by
  apply BitVec.eq_of_toNat_eq
  rw [BitVec.toNat_setWidth_of_le (by decide), toNat_low12]
  omega

namespace Machine

/-! ### ALIGN12 -/

/-- R69: ALIGN12 answers the upper twelve bits, zero-extended. -/
theorem align12_y (v : Word) : (align12 v).y = (v.extractLsb' 4 12).setWidth 16 := ushiftRight_four v

/-- R69: as a number, that is division by 16. -/
theorem align12_y_toNat (v : Word) : (align12 v).y.toNat = v.toNat / 16 := Nat.shiftRight_eq_div_pow v.toNat 4

theorem align12_y_low (v : Word) : (align12 v).y.extractLsb' 0 12 = v.extractLsb' 4 12 := by
  rw [align12_y, codeField_low]

/-- Settles O27: the answer of ALIGN12 is a zero-extended code, and a non-zero `b` is stopped before. -/
theorem alignDiscardsPadding : Obligations.AlignDiscardsPadding := by
  unfold Obligations.AlignDiscardsPadding
  refine ⟨selectsRow .align12, fun s v => ⟨⟨(align12 v).y, align12_y_toNat v, ?_, align12_y_low v, ?_⟩,
    fun b hc hb => ?_⟩⟩
  · rw [align12_y, codeField_high]
  · exact exec_and_answers (i := .align12 v) rfl rfl rfl rfl
  · exact answers_illegal_b hc v rfl hb

/-! ### SEXT12 -/

theorem sext12_y_of_gt {v : Word} (h : 0x07FF < v.toNat) : (sext12 v).y = 0xF#4 ++ v.extractLsb' 0 12 := by
  rw [sext12_y, if_pos h]

theorem sext12_y_of_le {v : Word} (h : v.toNat ≤ 0x07FF) : (sext12 v).y = v := by
  rw [sext12_y, if_neg (Nat.not_lt.mpr h)]

/-- R70: on a code of 12 bits SEXT12 answers its sign-extension. -/
theorem sext12_y_of_code {v : Word} (h : v.toNat ≤ 0x0FFF) : (sext12 v).y = (v.extractLsb' 0 12).signExtend 16 := by
  have hlow : (v.extractLsb' 0 12).toNat = v.toNat := by rw [toNat_low12]; omega
  rw [signExtend_code, hlow, setWidth_low12 h, sext12_y]

/-- R70: four ones at the top stay four ones, and a value up to 0x07FF stays as it is. -/
theorem sext12_sext12_y (v : Word) : (sext12 (sext12 v).y).y = (sext12 v).y := by
  by_cases h : 0x07FF < v.toNat
  · have hy : 0x07FF < (0xF#4 ++ v.extractLsb' 0 12 : BitVec 16).toNat := by rw [toNat_ones_append]; omega
    rw [sext12_y_of_gt h, sext12_y_of_gt hy, BitVec.extractLsb'_append_eq_right]
  · have hle := Nat.not_lt.mp h
    rw [sext12_y_of_le hle, sext12_y_of_le hle]

/-- R70: SEXT12 changes the outputs alone. -/
theorem exec_sext12 (v : Word) (s : State) : exec (.sext12 v) s = .next (s.setOut ⟨(sext12 v).y, 0#8, 0#1, 0#3⟩) := rfl

/-- Settles O28: the two cases of SEXT12, the sign of a code, and SEXT12 of its own answer. -/
theorem sextForcesTopBitsAboveSevenFF : Obligations.SextForcesTopBitsAboveSevenFF := by
  unfold Obligations.SextForcesTopBitsAboveSevenFF
  refine ⟨selectsRow .sext12, fun s v => ⟨⟨(sext12 v).y, sext12_y_of_gt, sext12_y_of_le, fun hv => ?_,
    exec_sext12 v s, ?_, fun hc => ?_⟩, fun b hc hb => ?_⟩⟩
  · rw [sext12_y_of_code hv, BitVec.toInt_signExtend_of_le (by decide)]
  · rw [exec_sext12, sext12_sext12_y]
  · exact answers_instr hc (.sext12 v)
  · exact answers_illegal_b hc v rfl hb

/-! ### The two operations one after the other -/

/-- R71: the answer of ALIGN12 is a code of 12 bits, and SEXT12 extends its sign. -/
theorem sext12_align12_y (v : Word) : (sext12 (align12 v).y).y = v.sshiftRight 4 := by
  have hcode : (align12 v).y.toNat ≤ 0x0FFF := by rw [align12_y_toNat]; omega
  rw [sext12_y_of_code hcode, align12_y_low, sshiftRight_four]

/-- Settles O29: together the two operations are the arithmetic shift by 4. -/
theorem alignThenSextIsFloorDivision : Obligations.AlignThenSextIsFloorDivision := by
  unfold Obligations.AlignThenSextIsFloorDivision
  refine fun s v => ⟨s.setOut (align12 v), s.setOut (sext12 (align12 v).y), rfl, rfl, align12_y_toNat v, ?_, ?_⟩
  · rw [State.setOut_out, sext12_align12_y, toInt_sshiftRight_four]
  · exact sext12_align12_y v

end Machine

end Sys2Proof
end

section
/-! PROOFS. The arithmetic of the calibration scaler (spec 43_calibration.md R72, R80, R81): how the two scalers round, and
why a legal code never leaves the range of a port under a well-formed `Config`. -/

namespace Sys2Proof.Machine

/-! ### The unsigned scaler -/

/-- R72: the unsigned scaler rounds down. -/
theorem scaleU_mul_le (r num den : Nat) : scaleU r num den * den ≤ r * num := Nat.div_mul_le_self _ _

theorem lt_scaleU_succ_mul (r num : Nat) {den : Nat} (h : 1 ≤ den) : r * num < (scaleU r num den + 1) * den := by
  rw [Nat.mul_comm _ den]
  exact Nat.lt_mul_div_succ _ h

theorem scaleU_mono {r r' : Nat} (num den : Nat) (h : r ≤ r') : scaleU r num den ≤ scaleU r' num den :=
  Nat.div_le_div_right (Nat.mul_le_mul_right num h)

/-! ### The signed scaler -/

theorem scaleS_neg (r : Int) (num den : Nat) : scaleS (-r) num den = -scaleS r num den := by
  rw [scaleS, Int.neg_mul, Int.neg_tdiv, scaleS]

/-- R72: rounding toward zero rounds the magnitude down. -/
theorem natAbs_scaleS (r : Int) (num den : Nat) : (scaleS r num den).natAbs = (r * num).natAbs / den :=
  Int.natAbs_tdiv _ _

/-- R79: the factor 1/1 changes nothing. -/
theorem scaleS_one (r : Int) : scaleS r 1 1 = r := by
  rw [scaleS, Nat.cast_one, mul_one, Int.tdiv_one]

/-- R81: the magnitude of a scaled code is bounded by the scaled bound of its magnitude. -/
theorem natAbs_scaleS_le {r : Int} {n : Nat} (num den : Nat) (h : r.natAbs ≤ n) :
    (scaleS r num den).natAbs ≤ scaleU n num den := by
  calc (scaleS r num den).natAbs
      = scaleU r.natAbs num den := by rw [natAbs_scaleS, Int.natAbs_mul, Int.natAbs_natCast, scaleU]
    _ ≤ scaleU n num den := scaleU_mono num den h

/-- Settles O36: the rounding and the monotonicity of the two scalers. -/
theorem scalerRoundsAsStated : Obligations.ScalerRoundsAsStated := by
  unfold Obligations.ScalerRoundsAsStated
  refine ⟨scaleS_neg, fun r num den _ => natAbs_scaleS r num den, fun r num den h => ⟨scaleU_mul_le r num den, ?_⟩,
    fun r r' num den h => scaleU_mono num den h⟩
  exact lt_scaleU_succ_mul r num h

/-! ### What a well-formed `Config` gives -/

/-- R80: the largest result of each scaler. -/
theorem scaledBounds_of_wf {c : Config} (hc : c.wf = true) :
    scaleU 4095 c.packNum c.packDen ≤ 65535 ∧ scaleU 4095 c.chgvNum c.chgvDen ≤ 65535
      ∧ scaleU 2048 c.maNum c.maDen ≤ 32767 := by
  obtain ⟨-, -, hwf⟩ := illFormedConfigIsRefused
  obtain ⟨-, -, -, -, -, -, -, -, -, hpack, hchgv, hchgi, -⟩ := hwf c hc
  exact ⟨hpack, hchgv, hchgi⟩

/-- R73, R80: the two selections that the source fixes. -/
theorem fixedSelections_of_wf {c : Config} (hc : c.wf = true) :
    (c.packCh = 3 ∧ c.packGain = 1) ∧ c.chgvCh = 2 ∧ c.chgvGain = 2 := by
  obtain ⟨-, -, hwf⟩ := illFormedConfigIsRefused
  obtain ⟨-, -, -, -, -, -, -, -, -, -, -, -, hpackCh, hpackGain, hchgvCh, hchgvGain, -⟩ := hwf c hc
  exact ⟨⟨hpackCh, hpackGain⟩, hchgvCh, hchgvGain⟩

end Sys2Proof.Machine
end

section
/-! PROOFS. The two voltage scalers (spec 43_calibration.md R77, R78): the same rule with two pairs of constants. -/

namespace Sys2Proof.Machine

/-- R77, R78: the record of a legal code. -/
theorem scaleUnsigned_code (num den : Nat) (r : BitVec 12) :
    scaleUnsigned num den (r.setWidth 16) = ⟨BitVec.ofNat 16 (scaleU r.toNat num den), 0#8, 0#1, 0#3⟩ := by
  have hr : (r.setWidth 16).toNat = r.toNat := BitVec.toNat_setWidth_of_le (by decide)
  have hraw : rawUnsigned (r.setWidth 16) = some r.toNat := by
    rw [rawUnsigned_eq, hr, if_pos (by omega)]
  rw [scaleUnsigned, hraw]
  rfl

/-- R81: the reduction to 16 bits changes no scaled code. -/
theorem toNat_scaledCode {num den : Nat} (h : scaleU 4095 num den ≤ 65535) (r : BitVec 12) :
    (BitVec.ofNat 16 (scaleU r.toNat num den)).toNat = r.toNat * num / den := by
  have hmono : scaleU r.toNat num den ≤ scaleU 4095 num den := scaleU_mono num den (by omega)
  rw [BitVec.toNat_ofNat, Nat.mod_eq_of_lt (by omega), scaleU]

/-- An instruction whose rule is the unsigned scaler answers the exact quotient. -/
theorem scaleUnsigned_exact {s : State} (hc : s.cfg.wf = true) {i : Instr} {num den : Nat}
    (hbound : scaleU 4095 num den ≤ 65535) (r : BitVec 12)
    (hrule : performRule s.cfg i.opcode.code i.portB i.portA = scaleUnsigned num den (r.setWidth 16)) :
    ∃ y : Word, y.toNat = r.toNat * num / den ∧ exec i s = .next (s.setOut ⟨y, 0#8, 0#1, 0#3⟩)
      ∧ Answers s i.opcode.code i.portB i.portA ⟨y, 0#8, 0#1, 0#3⟩ := by
  rw [scaleUnsigned_code] at hrule
  obtain ⟨hexec, hans⟩ := exec_and_answers rfl rfl rfl hrule
  exact ⟨_, toNat_scaledCode hbound r, hexec, hans hc⟩

/-- R77, R78: a voltage scaler has two operands that can be wrong, and answers the same for both. -/
theorem answers_scaleUnsigned_illegal {s : State} (hc : s.cfg.wf = true) {op b : Byte} {a : Word}
    (hop : op = 0x0C#8 ∨ op = 0x0D#8) (h : b ≠ 0#8 ∨ 4095 < a.toNat) : Answers s op b a ⟨0#16, 0#8, 0#1, 4#3⟩ := by
  have hmbz : mbzB op = 0xFF#8 := by rcases hop with rfl | rfl <;> rfl
  rcases h with hb | ha
  · exact answers_illegal_b hc a hmbz hb
  · exact answers_illegalOperand hc (.inr (.inr (.inr (.inl ⟨hop, ha⟩))))

/-- Settles O33: the scaled code is in range, and 4095 * 1000 / 71 is 57676. -/
theorem scalePackIsExactQuotient : Obligations.ScalePackIsExactQuotient := by
  unfold Obligations.ScalePackIsExactQuotient
  refine ⟨selectsRow .scalePack, rfl, rfl, fun s hc => ⟨fun r => ?_, fun b a => ?_⟩⟩
  · obtain ⟨hbound, -, -⟩ := scaledBounds_of_wf hc
    obtain ⟨y, hy, hexec, hans⟩ := scaleUnsigned_exact hc (i := .scalePack r) hbound r rfl
    refine ⟨y, hy, fun hnum hden => ?_, hexec, hans⟩
    rw [hy, hnum, hden]
    omega
  · exact answers_scaleUnsigned_illegal hc (.inl rfl)

/-- Settles O34: the scaled code is in range. -/
theorem scaleChgvIsExactQuotient : Obligations.ScaleChgvIsExactQuotient := by
  unfold Obligations.ScaleChgvIsExactQuotient
  refine ⟨selectsRow .scaleChgv, rfl, rfl, fun s hc => ⟨fun r => ?_, fun b a => ?_⟩⟩
  · obtain ⟨-, hbound, -⟩ := scaledBounds_of_wf hc
    obtain ⟨y, hy, hexec, hans⟩ := scaleUnsigned_exact hc (i := .scaleChgv r) hbound r rfl
    refine ⟨y, hy, fun hnum hden => ?_, hexec, hans⟩
    rw [hy, hnum, hden]
    omega
  · exact answers_scaleUnsigned_illegal hc (.inr rfl)

end Sys2Proof.Machine
end

section
/-! PROOFS. The current scaler (spec 43_calibration.md R79): the scaled code with the sign convention of `Config`, which
keeps its magnitude. -/

namespace Sys2Proof.Machine

/-- R79: the scaled code, before it is reduced to 16 bits. -/
def chargerCurrent (c : Config) (r : Int) : Int :=
  if c.maNegate = 1#1 then -scaleS r c.maNum c.maDen else scaleS r c.maNum c.maDen

theorem chargerCurrent_direct {c : Config} (h : c.maNegate = 0#1) (r : Int) :
    chargerCurrent c r = scaleS r c.maNum c.maDen := if_neg (by rw [h]; decide)

theorem chargerCurrent_negated {c : Config} (h : c.maNegate = 1#1) (r : Int) :
    chargerCurrent c r = -scaleS r c.maNum c.maDen := if_pos h

theorem natAbs_chargerCurrent (c : Config) (r : Int) :
    (chargerCurrent c r).natAbs = (scaleS r c.maNum c.maDen).natAbs := by
  unfold chargerCurrent
  split
  · exact Int.natAbs_neg _
  · rfl

/-- R81: a legal code is scaled to at most what -2048 is scaled to. -/
theorem natAbs_chargerCurrent_le {c : Config} (hc : c.wf = true) {r : Int} (hlo : -2048 ≤ r) (hhi : r ≤ 2047) :
    (chargerCurrent c r).natAbs ≤ 32767 := by
  obtain ⟨-, -, hbound⟩ := scaledBounds_of_wf hc
  rw [natAbs_chargerCurrent]
  exact (natAbs_scaleS_le c.maNum c.maDen (by omega)).trans hbound

/-- R79: the record of a legal code. -/
theorem scaleChgi_legal (c : Config) {a : Word} (hlo : -2048 ≤ a.toInt) (hhi : a.toInt ≤ 2047) :
    scaleChgi c a = ⟨BitVec.ofInt 16 (chargerCurrent c a.toInt), 0#8, 0#1, 0#3⟩ := by
  have hraw : rawSigned a = some a.toInt := if_pos ⟨hlo, hhi⟩
  rw [scaleChgi, hraw]
  rfl

/-- R81: the reduction to 16 bits changes no value of that magnitude. -/
theorem toInt_ofInt_of_natAbs_le {v : Int} (h : v.natAbs ≤ 32767) : (BitVec.ofInt 16 v).toInt = v :=
  BitVec.toInt_ofInt_eq_self (by decide) (by omega) (by omega)

/-- Settles O35: the scaled code is in range, so it is what the port shows under either sign convention. -/
theorem scaleChgiScalesThenNegates : Obligations.ScaleChgiScalesThenNegates := by
  unfold Obligations.ScaleChgiScalesThenNegates
  refine ⟨selectsRow .scaleChgi, rfl, rfl, fun s hc => ⟨fun r hlo hhi => ?_, fun r hr => ?_, fun b a hb => ?_⟩⟩
  · have hrange := natAbs_chargerCurrent_le hc hlo hhi
    have hy := toInt_ofInt_of_natAbs_le hrange
    obtain ⟨hexec, hans⟩ := exec_and_answers (i := .scaleChgi r) rfl rfl rfl (scaleChgi_legal s.cfg hlo hhi)
    refine ⟨BitVec.ofInt 16 (chargerCurrent s.cfg r.toInt), fun hn => ?_, fun hn => ?_, by omega, by omega,
      fun hnum hden hn => ?_, fun hnum hden hn => ?_, hexec, hans hc⟩
    · exact hy.trans (chargerCurrent_direct hn _)
    · exact hy.trans (chargerCurrent_negated hn _)
    · apply BitVec.eq_of_toInt_eq
      rw [hy, chargerCurrent_direct hn, hnum, hden, scaleS_one]
    · rw [hy, chargerCurrent_negated hn, hnum, hden, scaleS_one]
  · obtain ⟨hexec, hans⟩ := exec_and_answers (i := .scaleChgi r) rfl rfl rfl (scaleChgi_outOfRange s.cfg hr)
    exact ⟨hexec, hans hc⟩
  · exact answers_illegal_b hc a rfl hb

end Sys2Proof.Machine
end

section
/-! PROOFS. The measurement configurations (spec 43_calibration.md R74 to R76): each is the encoding of a selection and a
gain index that `Config` fixes, with no operand. -/

namespace Sys2Proof.Machine

/-- R74 to R76: a measurement configuration must be presented with both operands zero. -/
theorem answers_cfg_illegal {s : State} (hc : s.cfg.wf = true) {op b : Byte} {a : Word}
    (hop : op = 0x09#8 ∨ op = 0x0A#8 ∨ op = 0x0B#8) (h : b ≠ 0#8 ∨ a ≠ 0#16) :
    Answers s op b a ⟨0#16, 0#8, 0#1, 4#3⟩ := by
  have hmbz : mbzB op = 0xFF#8 ∧ mbzA op = 0xFFFF#16 := by rcases hop with rfl | rfl | rfl <;> decide
  obtain ⟨hmbzB, hmbzA⟩ := hmbz
  refine answers_illegalOperand hc (.inr (.inl ?_))
  rwa [hmbzB, hmbzA, and_FF, and_FFFF]

/-- R74: the channel and the gain index of the pack voltage. -/
theorem cfgPack_of_wf {c : Config} (hc : c.wf = true) : cfgPack c = ⟨cfgword c c.muxSe3 1, 0#8, 1#1, 0#3⟩ := by
  obtain ⟨⟨hch, hgain⟩, -⟩ := fixedSelections_of_wf hc
  rw [cfgPack, hch, hgain]
  rfl

/-- R75: the channel and the gain index of the charger voltage. -/
theorem cfgChgv_of_wf {c : Config} (hc : c.wf = true) : cfgChgv c = ⟨cfgword c c.muxSe2 2, 0#8, 1#1, 0#3⟩ := by
  obtain ⟨-, hch, hgain⟩ := fixedSelections_of_wf hc
  rw [cfgChgv, hch, hgain]
  rfl

/-- Settles O30: the record is that of the single-ended encoder for channel 3 at gain index 1. -/
theorem cfgPackSelectsChannelThreeGainOne : Obligations.CfgPackSelectsChannelThreeGainOne := by
  unfold Obligations.CfgPackSelectsChannelThreeGainOne
  refine ⟨selectsRow .cfgPack, fun s hc => ?_⟩
  obtain ⟨hexec, hans⟩ := exec_and_answers (i := .cfgPack) rfl rfl rfl (cfgPack_of_wf hc)
  have hencSe := (encSe_encodes s 3 1).1
  exact ⟨hexec, hans hc, hexec.trans hencSe.symm, fun b a => answers_cfg_illegal hc (.inl rfl)⟩

/-- Settles O31: the record is that of the single-ended encoder for channel 2 at gain index 2. -/
theorem cfgChgvSelectsChannelTwoGainTwo : Obligations.CfgChgvSelectsChannelTwoGainTwo := by
  unfold Obligations.CfgChgvSelectsChannelTwoGainTwo
  refine ⟨selectsRow .cfgChgv, fun s hc => ?_⟩
  obtain ⟨hexec, hans⟩ := exec_and_answers (i := .cfgChgv) rfl rfl rfl (cfgChgv_of_wf hc)
  have hencSe := (encSe_encodes s 2 2).1
  exact ⟨hexec, hans hc, hexec.trans hencSe.symm, fun b a => answers_cfg_illegal hc (.inr (.inl rfl))⟩

/-- R76: CFG_CHGI encodes channel 0 minus channel 1 at `MA_GAIN`. -/
theorem cfgChgi_encodes (s : State) :
    exec .cfgChgi s = .next (s.setOut ⟨cfgword s.cfg s.cfg.muxD01 s.cfg.maGain, 0#8, 1#1, 0#3⟩)
      ∧ (s.cfg.wf = true →
          Answers s 0x0B#8 0#8 0#16 ⟨cfgword s.cfg s.cfg.muxD01 s.cfg.maGain, 0#8, 1#1, 0#3⟩) :=
  exec_and_answers rfl rfl rfl rfl

/-- Settles O32: `MA_GAIN` is an OPEN field, and the record is that of the encoder of the pairing at that gain index. -/
theorem cfgChgiSelectsPairAtConfiguredGain : Obligations.CfgChgiSelectsPairAtConfiguredGain := by
  unfold Obligations.CfgChgiSelectsPairAtConfiguredGain
  refine ⟨selectsRow .cfgChgi, fun c g n hc => ?_, fun c => ⟨rfl, rfl, rfl, rfl⟩, fun s => ?_⟩
  · exact (Config.wf_openFields c g n c.devAddr c.convDelay).trans hc
  · obtain ⟨hexec, hans⟩ := cfgChgi_encodes s
    have hencD01 := (encD01_encodes s s.cfg.maGain).1
    exact ⟨hexec, hans, hexec.trans hencD01.symm, fun b a hc => answers_cfg_illegal hc (.inr (.inr rfl))⟩

/-! ### The two documented settings -/

@[simp] theorem cfgword_v16 (c : Config) (m : BitVec 3) (g : Fin 6) : cfgword c.v16 m g = cfgword c m g := rfl

@[simp] theorem cfgword_v2n (c : Config) (m : BitVec 3) (g : Fin 6) : cfgword c.v2n m g = cfgword c m g := rfl

/-- Settles O54: the code of the pairing is 0, and the gain index is 5 or 2. -/
theorem cfgChgiWordsOfTheTwoSettings : Obligations.CfgChgiWordsOfTheTwoSettings := by
  unfold Obligations.CfgChgiWordsOfTheTwoSettings
  refine fun s => ⟨fun hset => ?_, fun hset => ?_⟩
  · rw [(cfgChgi_encodes s).1, hset, cfgword_v16, cfgword_hardwareConfig]
    rfl
  · rw [(cfgChgi_encodes s).1, hset, cfgword_v2n, cfgword_hardwareConfig]
    rfl

end Sys2Proof.Machine
end

section
/-! PROOFS. The rules for running a host sequence (spec 44_sample_sequences.md R82 to R90): one rule for each kind of host
step, of the form `run (k + 1) (before) = run k (after)`, for every answer of the transport. -/

namespace Sys2Proof.Machine

/-! ### The states between the steps -/

/-- The state with the host steps `l` left. -/
def State.withTodo (s : State) (l : List HostStep) : State := { s with todo := l }

/-- The state after a transport call, apart from what the call does to the device or delivers (R34): the call is logged
and one answer is used up. -/
abbrev State.called (s : State) (x : BusCall) : State :=
  { s with log := s.log ++ [x], busOk := replyOk (nextReply s), script := s.script.tail, fresh := s.fresh + 1 }

/-- The state after a transmit of `bytes` that left the device as `d` (R26). -/
abbrev State.transmitted (s : State) (bytes : List Byte) (d : Device) : State :=
  { s.called (.transmit s.cfg.devAddr bytes 100) with dev := d }

/-- The state after a receive that delivered `bytes` (R27). -/
abbrev State.received (s : State) (bytes : List Byte) : State :=
  { s.called (.receive s.cfg.devAddr 2 100) with rxBuf := bytes }

/-- The device after a frame was sent to it and the transport has answered `r`: it takes the frame only when that arrives
(R33, R95). None where the spec gives the device no behaviour. -/
def Device.afterFrame (c : Config) (d : Device) (bytes : List Byte) (r : BusReply) : Option Device :=
  if replyReaches r then d.takeFrame c bytes else some d

/-- Any sequence starts from the state in which its start is the first host step. -/
theorem starting_eq (s : State) (q : HostSequence) : s.starting q = s.withTodo (.call q :: s.todo) := rfl

/-! ### The device and a frame -/

theorem afterFrame_of_takeFrame {c : Config} {d d' : Device} {bytes : List Byte} (h : d.takeFrame c bytes = some d')
    (r : BusReply) : d.afterFrame c bytes r = some (if replyReaches r then d' else d) := by
  unfold Device.afterFrame
  split <;> simp_all

theorem afterFrame_not_reached (c : Config) (d : Device) (bytes : List Byte) :
    d.afterFrame c bytes (.fail false) = some d := rfl

/-- A transmit logs its call and leaves the device as the frame does. -/
theorem transmit_of_afterFrame {f : Frame} {s : State} {d : Device} (hh : s.handle = true)
    (hd : s.dev.afterFrame s.cfg (f.bytes s) (nextReply s) = some d) :
    transmit f s = .next { s.called (.transmit s.cfg.devAddr (f.bytes s) s.cfg.busTimeoutMs) with dev := d } := by
  unfold Device.afterFrame at hd
  split at hd
  next hr => rw [transmit_of_takeFrame hh hd, if_pos hr]
  next hr =>
    obtain rfl : s.dev = d := Option.some.inj hd
    simp [transmit, hh, hr]

/-- A receive from a readable register delivers what the answer says, with a failure no bytes. -/
theorem receive_of_read {s : State} {v : Word} (hh : s.handle = true) (hv : s.dev.read s.fresh = some v) :
    receive s = .next { s.called (.receive s.cfg.devAddr 2 s.cfg.busTimeoutMs) with
      rxBuf := receivedBytes v (nextReply s) } := by
  cases hr : nextReply s <;> simp [receive, hh, hv, hr, replyOk, receivedBytes]

/-- A wait does not depend on the host steps left. -/
theorem waitFor_withTodo (n : Nat) (s : State) (l : List HostStep) :
    waitFor n (s.withTodo l) = (waitFor n s).withTodo l := by
  cases h : s.dev.inFlight with
  | none => simp [waitFor, State.withTodo, h]
  | some p =>
    by_cases hd : s.cfg.convDelay ≤ p.2 + n <;> simp [waitFor, State.withTodo, h, hd]

/-! ### The presented command word -/

/-- An instruction's ports are answered by the rule of its operation. -/
theorem perform_instr (c : Config) (i : Instr) :
    perform c i.opcode.code i.portB i.portA = performRule c i.opcode.code i.portB i.portA :=
  perform_eq_performRule c (opcode_code_le _) (portB_and_mbzB i) (portA_and_mbzA i)

/-! ### One rule for each kind of host step -/

section
variable {s : State} {rest : List HostStep} (hc : s.cfg.wf = true) (k : Nat)
include hc

/-- The first host step is performed in the state that no longer holds it. -/
theorem run_hostStep {x : HostStep} {t : State} (h : hostStep x (s.withTodo rest) = .next t) :
    run (k + 1) (s.withTodo (x :: rest)) = run k t :=
  run_cons (s := s.withTodo (x :: rest)) hc rfl h k

theorem run_call (q : HostSequence) :
    run (k + 1) (s.withTodo (.call q :: rest)) = run k (s.withTodo (expand s.cfg q ++ .seqEnd :: rest)) :=
  run_hostStep hc k rfl

theorem run_seqEnd : run (k + 1) (s.withTodo (.seqEnd :: rest)) = run k (s.withTodo rest) := run_hostStep hc k rfl

/-- A command word is presented and answered (R56). -/
theorem run_op (bs : BSource) (as : ASource) {o b : Byte} {a : Word} {r : Result} (hr : perform s.cfg o b a = r)
    (hb : bs.eval s = b) (ha : as.eval s = a) :
    run (k + 1) (s.withTodo (.op o bs as :: rest)) = run k (((s.setIn o b a).setOut r).withTodo rest) := by
  subst hb ha hr
  refine run_hostStep hc k ?_
  rw [hostStep, present_eq_perform]
  cases bs <;> cases as <;> rfl

theorem run_wait (n : Nat) :
    run (k + 1) (s.withTodo (.wait n :: rest)) = run k ((waitFor n s).withTodo rest) := by
  refine run_hostStep hc k ?_
  rw [hostStep, waitFor_withTodo]

/-! A conditional `RETURN` of an error (R90). -/

theorem run_ifGoZero_pass (h : s.out.go = 1#1) :
    run (k + 1) (s.withTodo (.ifGoZero :: rest)) = run k (s.withTodo rest) := by
  refine run_hostStep hc k (congrArg _ (if_neg ?_))
  change s.out.go ≠ 0#1
  rw [h]; decide

theorem run_ifGoZero_return (h : s.out.go = 0#1) :
    run (k + 1) (s.withTodo (.ifGoZero :: rest)) = run k ((s.returnsError s.out.st).withTodo (afterReturn rest)) :=
  run_hostStep hc k (congrArg _ (if_pos h))

theorem run_ifTxFailed_pass (h : s.busOk = true) :
    run (k + 1) (s.withTodo (.ifTxFailed :: rest)) = run k (s.withTodo rest) :=
  run_hostStep hc k (congrArg _ (if_pos h))

theorem run_ifTxFailed_return (h : s.busOk = false) :
    run (k + 1) (s.withTodo (.ifTxFailed :: rest)) = run k ((s.returnsError 2#3).withTodo (afterReturn rest)) :=
  run_hostStep hc k (congrArg _ (if_neg (Bool.eq_false_iff.mp h)))

theorem run_ifRxFailed_pass (h : rxFailed s = false) :
    run (k + 1) (s.withTodo (.ifRxFailed :: rest)) = run k (s.withTodo rest) :=
  run_hostStep hc k (congrArg _ (if_neg (Bool.eq_false_iff.mp h)))

theorem run_ifRxFailed_return (h : rxFailed s = true) :
    run (k + 1) (s.withTodo (.ifRxFailed :: rest)) = run k ((s.returnsError 2#3).withTodo (afterReturn rest)) :=
  run_hostStep hc k (congrArg _ (if_pos h))

theorem run_ifNotOk_pass (h : s.ret.status = 0#3) :
    run (k + 1) (s.withTodo (.ifNotOk :: rest)) = run k (s.withTodo rest) :=
  run_hostStep hc k (congrArg _ (if_pos h))

theorem run_ifNotOk_return (h : s.ret.status ≠ 0#3) :
    run (k + 1) (s.withTodo (.ifNotOk :: rest)) = run k ((s.returnsError s.ret.status).withTodo (afterReturn rest)) :=
  run_hostStep hc k (congrArg _ (if_neg h))

theorem run_returnY :
    run (k + 1) (s.withTodo (.returnY :: rest)) = run k ((s.returns s.out.y 0#3).withTodo (afterReturn rest)) :=
  run_hostStep hc k rfl

theorem run_returnBusStatus :
    run (k + 1) (s.withTodo (.returnBusStatus :: rest))
      = run k ((s.returns 0#16 (busStatus s.busOk)).withTodo (afterReturn rest)) :=
  run_hostStep hc k rfl

/-! The two transport calls (R26, R27). -/

theorem run_tx (hh : s.handle = true) (f : Frame) {bytes : List Byte} {d : Device}
    (hd : s.dev.afterFrame s.cfg bytes (nextReply s) = some d) (hf : f.bytes s = bytes) :
    run (k + 1) (s.withTodo (.tx f :: rest)) = run k ((s.transmitted bytes d).withTodo rest) := by
  subst hf
  refine run_hostStep hc k ?_
  rw [hostStep, transmit_of_afterFrame (s := s.withTodo rest) hh hd, State.transmitted, ← busTimeoutMs_of_wf hc]
  rfl

theorem run_tx_refused (hh : s.handle = true) (f : Frame) {bytes : List Byte}
    (hd : s.dev.afterFrame s.cfg bytes (nextReply s) = none) (hf : f.bytes s = bytes) :
    run (k + 1) (s.withTodo (.tx f :: rest)) = .refused (.deviceAccessUndefined (bytes.headD 0#8)) := by
  subst hf
  unfold Device.afterFrame at hd
  split at hd
  next hr =>
    rw [run, step_cons (s := s.withTodo (.tx f :: rest)) hc rfl, hostStep,
      transmit_refused (s := { s.withTodo (.tx f :: rest) with todo := rest }) hh hr hd]
    rfl
  next => cases hd

theorem run_rx (hh : s.handle = true) {v : Word} (hv : s.dev.read s.fresh = some v) :
    run (k + 1) (s.withTodo (.rx :: rest)) = run k ((s.received (receivedBytes v (nextReply s))).withTodo rest) := by
  refine run_hostStep hc k ?_
  rw [hostStep, receive_of_read (s := s.withTodo rest) hh hv, State.received, ← busTimeoutMs_of_wf hc]
  rfl

end

end Sys2Proof.Machine
end

section
/-! PROOFS. `WRITE_REG` and `READ_REG` (spec 44_sample_sequences.md R82, R83): each way such a sequence can end, with the
whole state it leaves. -/

namespace Sys2Proof.Machine

/-! ### What the operations of the two sequences put on the outputs -/

theorem perform_frameWr (c : Config) (p : Byte) (v : Word) : perform c 0x00#8 p v = frameWr p v :=
  perform_instr c (.frameWr p v)

theorem perform_frameRd (c : Config) (p : Byte) : perform c 0x01#8 p 0#16 = frameRd p := perform_instr c (.frameRd p)

/-- R28: the two bytes of a word, the high byte first. -/
abbrev wordBytes (w : Word) : List Byte := [w.extractLsb' 8 8, w.extractLsb' 0 8]

/-- R62: COMPOSE puts the two bytes of a word together again. -/
theorem perform_compose (c : Config) (w : Word) :
    perform c 0x02#8 (w.extractLsb' 8 8) ((w.extractLsb' 0 8).setWidth 16) = ⟨w, 0#8, 0#1, 0#3⟩ := by
  have hw := compose_setWidth (w.extractLsb' 8 8) (w.extractLsb' 0 8)
  rw [append_extract_bytes] at hw
  exact (perform_instr c (.compose (w.extractLsb' 8 8) (w.extractLsb' 0 8))).trans hw

/-- A receive that delivers a byte has succeeded (R34). -/
theorem replyOk_of_receivedBytes {v : Word} {r : BusReply} (h : receivedBytes v r ≠ []) : replyOk r = true := by
  cases r with
  | fail reached => exact absurd rfl h
  | _ => rfl

/-! ### `WRITE_REG` -/

/-- R52 (a): the bytes that carry a value to a register. -/
abbrev writeFrame (p : Byte) (v : Word) : List Byte := p :: wordBytes v

/-- R31: what the configuration write does to the device. -/
theorem afterFrame_confWrite (c : Config) (d : Device) (v : Word) (r : BusReply) :
    d.afterFrame c (writeFrame confPtr v) r = some (if replyReaches r then d.writeConf c v else d) := by
  have hd : d.takeFrame c (writeFrame confPtr v) = some (d.writeConf c v) := by
    rw [takeFrame_write, append_extract_bytes]
  exact afterFrame_of_takeFrame hd r

/-- After FRAME_WR, before its transmit. -/
abbrev State.framedWr (s : State) (p : Byte) (v : Word) : State := (s.setIn 0x00#8 p v).setOut (frameWr p v)

/-- After a whole WRITE_REG of `v` that left the device as `d` (R82). -/
abbrev State.wrote (s : State) (p : Byte) (v : Word) (d : Device) : State :=
  ((s.framedWr p v).transmitted (writeFrame p v) d).returns 0#16 (busStatus (replyOk (nextReply s)))

section
variable {s : State} (hc : s.cfg.wf = true) (hh : s.handle = true) (k : Nat) (p : Byte) (v : ASource)
  (rest : List HostStep)
include hc

theorem run_writeReg_frame :
    run (k + 2) (s.withTodo (.call (.writeReg p v) :: rest))
      = run k ((s.framedWr p (v.eval s)).withTodo (.tx (.write .outX .outYHi .outYLo) :: .returnBusStatus
          :: .seqEnd :: rest)) := by
  rw [run_call hc]
  exact run_op hc k _ _ (perform_frameWr ..) rfl rfl

include hh

theorem run_writeReg {d : Device} (hd : s.dev.afterFrame s.cfg (writeFrame p (v.eval s)) (nextReply s) = some d) :
    run (k + 4) (s.withTodo (.call (.writeReg p v) :: rest)) = run k ((s.wrote p (v.eval s) d).withTodo rest) := by
  rw [run_writeReg_frame hc, run_tx (s := s.framedWr p (v.eval s)) hc _ hh (.write .outX .outYHi .outYLo) hd rfl]
  exact run_returnBusStatus (s := (s.framedWr p (v.eval s)).transmitted (writeFrame p (v.eval s)) d) hc k

theorem run_writeReg_refused (hd : s.dev.afterFrame s.cfg (writeFrame p (v.eval s)) (nextReply s) = none) :
    run (k + 3) (s.withTodo (.call (.writeReg p v) :: rest)) = .refused (.deviceAccessUndefined p) := by
  rw [run_writeReg_frame hc]
  exact run_tx_refused (s := s.framedWr p (v.eval s)) hc k hh _ hd rfl

end

/-- Settles O42: the device takes the frame, the frame does not reach it, or it is refused there. -/
theorem writeRegTransmitsOneFrame : Obligations.WriteRegTransmitsOneFrame := by
  unfold Obligations.WriteRegTransmitsOneFrame
  intro s p v r sc hc hh hs
  have hr : nextReply s = r := nextReply_cons hs
  rw [starting_eq]
  refine ⟨fun h => ?_, fun hp hreach => ?_⟩
  · have hd : s.dev.afterFrame s.cfg (writeFrame p v) (nextReply s)
        = some (if replyReaches r then s.dev.writeConf s.cfg v else s.dev) := by
      rw [hr]
      rcases h with rfl | rfl
      · exact afterFrame_confWrite ..
      · exact afterFrame_not_reached ..
    refine ⟨_, run_writeReg hc hh 0 p (.lit v) s.todo hd, rfl, rfl, ?_, rfl, fun hreach => ?_, ?_, ?_, fun hok => ?_⟩
    · simp [State.withTodo, hs]
    · simp [State.withTodo, (replyReaches_iff r).mpr hreach]
    · rintro rfl; rfl
    · rintro ⟨reached, rfl⟩; simp [State.withTodo, hr, replyOk, busStatus, ErrorKind.code]
    · simp [State.withTodo, hr, (replyOk_iff r).mpr hok, busStatus, statusOk]
  · refine run_writeReg_refused hc hh 0 p (.lit v) s.todo ?_
    rw [hr, Device.afterFrame, if_pos ((replyReaches_iff r).mpr hreach)]
    exact takeFrame_write_eq_none _ _ hp _ _

/-! ### `READ_REG` -/

/-- After FRAME_RD, before its transmit. -/
abbrev State.framedRd (s : State) (p : Byte) : State := (s.setIn 0x01#8 p 0#16).setOut (frameRd p)

/-- After the pointer frame of READ_REG, which left the device as `d`. -/
abbrev State.pointed (s : State) (p : Byte) (d : Device) : State := (s.framedRd p).transmitted [p] d

/-- After COMPOSE of the two bytes of `w`. -/
abbrev State.composed (s : State) (w : Word) : State :=
  (s.setIn 0x02#8 (w.extractLsb' 8 8) ((w.extractLsb' 0 8).setWidth 16)).setOut ⟨w, 0#8, 0#1, 0#3⟩

/-- After a whole READ_REG whose pointer frame left the device as `d` and which received `w` (R83). -/
abbrev State.readWord (s : State) (p : Byte) (d : Device) (w : Word) : State :=
  (((s.pointed p d).received (wordBytes w)).composed w).returns w 0#3

section
variable {s : State} (hc : s.cfg.wf = true) (hh : s.handle = true) (k : Nat) {p : Byte} {d : Device}
  (rest : List HostStep)
include hc

theorem run_readReg_frame (p : Byte) :
    run (k + 2) (s.withTodo (.call (.readReg p) :: rest))
      = run k ((s.framedRd p).withTodo (.tx (.pointer .outX) :: .ifTxFailed :: .rx :: .ifRxFailed
          :: stepOf .compose .rx0 .rx1 :: .returnY :: .seqEnd :: rest)) := by
  rw [run_call hc]
  exact run_op hc k _ _ (perform_frameRd ..) rfl rfl

include hh

theorem run_readReg_refused (hd : s.dev.afterFrame s.cfg [p] (nextReply s) = none) :
    run (k + 3) (s.withTodo (.call (.readReg p) :: rest)) = .refused (.deviceAccessUndefined p) := by
  rw [run_readReg_frame hc]
  exact run_tx_refused (s := s.framedRd p) hc k hh _ hd rfl

variable (hd : s.dev.afterFrame s.cfg [p] (nextReply s) = some d)
include hd

theorem run_readReg_pointer :
    run (k + 3) (s.withTodo (.call (.readReg p) :: rest))
      = run k ((s.pointed p d).withTodo (.ifTxFailed :: .rx :: .ifRxFailed :: stepOf .compose .rx0 .rx1 :: .returnY
          :: .seqEnd :: rest)) := by
  rw [run_readReg_frame hc, run_tx (s := s.framedRd p) hc _ hh (.pointer .outX) hd rfl]

/-- R83: the first call fails. -/
theorem run_readReg_pointerFailed (hr : replyOk (nextReply s) = false) :
    run (k + 4) (s.withTodo (.call (.readReg p) :: rest)) = run k (((s.pointed p d).returnsError 2#3).withTodo rest) := by
  rw [run_readReg_pointer hc hh _ rest hd]
  exact run_ifTxFailed_return (s := s.pointed p d) hc k hr

variable (hr : replyOk (nextReply s) = true) {v : Word} (hv : d.read (s.fresh + 1) = some v)
include hr hv

theorem run_readReg_receive :
    run (k + 5) (s.withTodo (.call (.readReg p) :: rest))
      = run k (((s.pointed p d).received (receivedBytes v (nextReply (s.pointed p d)))).withTodo
          (.ifRxFailed :: stepOf .compose .rx0 .rx1 :: .returnY :: .seqEnd :: rest)) := by
  rw [run_readReg_pointer hc hh _ rest hd, run_ifTxFailed_pass (s := s.pointed p d) hc _ hr,
    run_rx (s := s.pointed p d) hc _ hh hv]

/-- R83: the second call fails, or delivers another number of bytes. -/
theorem run_readReg_receiveFailed {bytes : List Byte}
    (hbytes : receivedBytes v (nextReply (s.pointed p d)) = bytes) (hlen : bytes.length ≠ 2) :
    run (k + 6) (s.withTodo (.call (.readReg p) :: rest))
      = run k ((((s.pointed p d).received bytes).returnsError 2#3).withTodo rest) := by
  have hrx : rxFailed ((s.pointed p d).received bytes) = true := by simp [rxFailed, hlen]
  rw [run_readReg_receive hc hh _ rest hd hr hv, hbytes]
  exact run_ifRxFailed_return (s := (s.pointed p d).received bytes) hc k hrx

/-- R83: both calls succeed and the two bytes of `w` are received. -/
theorem run_readReg_composed {w : Word} (hbytes : receivedBytes v (nextReply (s.pointed p d)) = wordBytes w) :
    run (k + 8) (s.withTodo (.call (.readReg p) :: rest)) = run k ((s.readWord p d w).withTodo rest) := by
  have hok : replyOk (nextReply (s.pointed p d)) = true := replyOk_of_receivedBytes (v := v) (by simp [hbytes])
  have hrx : rxFailed ((s.pointed p d).received (wordBytes w)) = false := by simp [rxFailed, hok]
  rw [run_readReg_receive hc hh _ rest hd hr hv, hbytes,
    run_ifRxFailed_pass (s := (s.pointed p d).received (wordBytes w)) hc _ hrx]
  refine (run_op (s := (s.pointed p d).received (wordBytes w)) hc _ .rx0 .rx1 (perform_compose s.cfg w) rfl
    rfl).trans ?_
  exact run_returnY (s := ((s.pointed p d).received (wordBytes w)).composed w) hc k

end

/-- R27: a device that points at one of its registers has something to read. -/
theorem Device.exists_read {d : Device} (h : d.ptr = convPtr ∨ d.ptr = confPtr) (n : Nat) : ∃ v, d.read n = some v := by
  rcases h with h | h
  · obtain ⟨v, hv, -⟩ := Device.read_convPtr h n
    exact ⟨v, hv⟩
  · exact ⟨_, Device.read_conf h n⟩

/-- The pointer frame for one of the two registers, when its call succeeds. -/
theorem afterFrame_pointer_ok {c : Config} {d : Device} {p : Byte} {r : BusReply} (hp : p = convPtr ∨ p = confPtr)
    (hr : replyOk r = true) : d.afterFrame c [p] r = some (d.point p) := by
  have hreach : replyReaches r = true := by cases r <;> simp_all [replyOk, replyReaches]
  rw [afterFrame_of_takeFrame (takeFrame_pointer hp), if_pos hreach]

/-- R27, R32: what a successful READ_REG receives is `w`. -/
theorem Delivers.read_point {d : Device} {p : Byte} {r : BusReply} {w : Word} (h : Delivers r d.conv w)
    (hp : p = convPtr ∨ p = confPtr) (hr : r = .ok → p = convPtr ∧ d.inFlight = none ∧ d.convDefined = true) (n : Nat) :
    ∃ v, (d.point p).read n = some v ∧ receivedBytes v r = wordBytes w := by
  rcases h with ⟨rfl, rfl⟩ | rfl
  · obtain ⟨rfl, hflight, hdef⟩ := hr rfl
    have hsettled : (d.point convPtr).settled = true := by simp [Device.settled_iff, hflight, hdef]
    exact ⟨_, Device.read_conv rfl hsettled n, rfl⟩
  · obtain ⟨v, hv⟩ := Device.exists_read (d := d.point p) hp n
    exact ⟨v, hv, rfl⟩

/-- The answers to the two calls of a READ_REG. -/
theorem nextReply_readReg {s : State} {r1 r2 : BusReply} {sc : List BusReply} (hs : s.script = r1 :: r2 :: sc) (p : Byte)
    (d : Device) : nextReply s = r1 ∧ nextReply (s.pointed p d) = r2 :=
  ⟨nextReply_cons hs, nextReply_cons (sc := sc) (congrArg List.tail hs)⟩

/-- R83: a READ_REG of one of the two registers, when both calls succeed and the two bytes of `w` are received. -/
theorem run_readReg_delivered {s : State} (hc : s.cfg.wf = true) (hh : s.handle = true) {p : Byte}
    (hp : p = convPtr ∨ p = confPtr) {r : BusReply} {sc : List BusReply} (hs : s.script = .ok :: r :: sc) {w : Word}
    (hw : Delivers r s.dev.conv w) (hr : r = .ok → p = convPtr ∧ s.dev.inFlight = none ∧ s.dev.convDefined = true)
    (k : Nat) (rest : List HostStep) :
    run (k + 8) (s.withTodo (.call (.readReg p) :: rest)) = run k ((s.readWord p (s.dev.point p) w).withTodo rest) := by
  obtain ⟨hr1, hr2⟩ := nextReply_readReg hs p (s.dev.point p)
  obtain ⟨v, hv, hbytes⟩ := hw.read_point hp hr (s.fresh + 1)
  have hok : replyOk (nextReply s) = true := by rw [hr1]; rfl
  exact run_readReg_composed hc hh k rest (afterFrame_pointer_ok hp hok) hok hv (hr2 ▸ hbytes)

/-- Settles O43: the answers of the transport decide which of the ends above READ_REG has. -/
theorem readRegComposesOrFails : Obligations.ReadRegComposesOrFails := by
  unfold Obligations.ReadRegComposesOrFails
  intro s p sc hc hh
  rw [starting_eq]
  refine ⟨fun r w hp hs hw hr => ?_, fun hp hs => ?_, fun reached hp hs => ?_, fun r hp hfail hs => ?_,
    fun r hp hr hs => ?_⟩
  · exact ⟨_, run_readReg_delivered hc hh hp hs hw hr 0 s.todo, rfl, rfl, rfl, List.append_assoc ..⟩
  · obtain ⟨hr1, hr2⟩ := nextReply_readReg hs p (s.dev.point p)
    have hok : replyOk (nextReply s) = true := by rw [hr1]; rfl
    obtain ⟨v, hv, hlow⟩ := Device.read_confPtr (d := s.dev.point p) hp (s.fresh + 1)
    have hbytes : receivedBytes v (nextReply (s.pointed p (s.dev.point p))) = wordBytes v := by rw [hr2]; rfl
    exact ⟨_, run_readReg_composed hc hh 0 s.todo (afterFrame_pointer_ok (.inr hp) hok) hok hv hbytes, rfl, rfl, hlow,
      List.append_assoc ..⟩
  · have hr : nextReply s = .fail reached := nextReply_cons hs
    obtain ⟨d, hd⟩ : ∃ d, s.dev.afterFrame s.cfg [p] (nextReply s) = some d := by
      rw [hr]
      rcases hp with rfl | rfl | rfl
      · exact ⟨_, afterFrame_of_takeFrame (takeFrame_pointer (.inl rfl)) _⟩
      · exact ⟨_, afterFrame_of_takeFrame (takeFrame_pointer (.inr rfl)) _⟩
      · exact ⟨_, afterFrame_not_reached ..⟩
    exact ⟨_, run_readReg_pointerFailed hc hh 0 s.todo hd (by rw [hr]; rfl), rfl, rfl, rfl⟩
  · obtain ⟨hr1, hr2⟩ := nextReply_readReg hs p (s.dev.point p)
    have hok : replyOk (nextReply s) = true := by rw [hr1]; rfl
    obtain ⟨v, hv⟩ := Device.exists_read (d := s.dev.point p) hp (s.fresh + 1)
    have hlen : (receivedBytes v (nextReply (s.pointed p (s.dev.point p)))).length ≠ 2 := by
      rw [hr2]
      rcases hfail with ⟨reached, rfl⟩ | ⟨bytes, rfl, hlen⟩
      · exact Nat.zero_ne_add_one 1
      · exact hlen
    exact ⟨_, run_readReg_receiveFailed hc hh 0 s.todo (afterFrame_pointer_ok hp hok) hok hv rfl hlen, rfl, rfl,
      List.append_assoc ..⟩
  · obtain ⟨h0, h1⟩ := ptr_outside_map hp
    refine run_readReg_refused hc hh 0 s.todo ?_
    rw [nextReply_cons hs, Device.afterFrame, if_pos ((replyReaches_iff r).mpr hr)]
    exact takeFrame_pointer_eq_none _ _ h0 h1

end Sys2Proof.Machine
end

section
/-! PROOFS. The shared `sample` (spec 44_sample_sequences.md R84): each way it can end, and the whole state that an
undisturbed one leaves. -/

namespace Sys2Proof.Machine

/-! ### The steps of `sample` -/

/-- R84, R85: the steps that turn the word received into the result. -/
def alignSteps (signed : Bool) : List HostStep :=
  stepOf .align12 (.lit 0#8) .retValue :: (if signed then [stepOf .sext12 (.lit 0#8) .outY] else []) ++ [.returnY]

theorem expand_sample (c : Config) (signed : Bool) (rest : List HostStep) :
    expand c (.sample signed) ++ .seqEnd :: rest
      = .ifGoZero :: .call (.writeReg confPtr .outY) :: .ifNotOk :: .wait c.convDelay :: .call (.readReg convPtr)
        :: .ifNotOk :: (alignSteps signed ++ .seqEnd :: rest) := by
  cases signed <;> rfl

theorem afterReturn_alignSteps (signed : Bool) (rest : List HostStep) :
    afterReturn (alignSteps signed ++ .seqEnd :: rest) = rest := by
  cases signed <;> rfl

/-- After the last steps of `sample`, on the word that READ_REG returned (R69, R70). -/
def State.aligned (s : State) (signed : Bool) : State :=
  if signed then
    ((s.setIn 0x08#8 0#8 (align12 s.ret.value).y).setOut (sext12 (align12 s.ret.value).y)).returns
      (sext12 (align12 s.ret.value).y).y 0#3
  else ((s.setIn 0x07#8 0#8 s.ret.value).setOut (align12 s.ret.value)).returns (align12 s.ret.value).y 0#3

/-- R84, R85: the value that `sample` returns for the word `w`. -/
def sampleValue (signed : Bool) (w : Word) : Word := if signed then (sext12 (align12 w).y).y else (align12 w).y

theorem aligned_cfg (s : State) (signed : Bool) : (s.aligned signed).cfg = s.cfg := by cases signed <;> rfl

theorem aligned_log (s : State) (signed : Bool) : (s.aligned signed).log = s.log := by cases signed <;> rfl

theorem aligned_ret (s : State) (signed : Bool) : (s.aligned signed).ret = ⟨sampleValue signed s.ret.value, 0#3⟩ := by
  cases signed <;> rfl

theorem perform_align12 (c : Config) (v : Word) : perform c 0x07#8 0#8 v = align12 v := perform_instr c (.align12 v)

theorem perform_sext12 (c : Config) (v : Word) : perform c 0x08#8 0#8 v = sext12 v := perform_instr c (.sext12 v)

/-- R63: a described conversion is what the encoders ask for. -/
theorem describedConversion_cfgword (c : Config) (t : Selection) (g : Fin 6) :
    c.describedConversion (cfgword c (c.mux t) g) = true := by
  simp only [Config.describedConversion_iff, fMode_cfgword, fDr_cfgword, fMux_cfgword, fPga_cfgword, true_and]
  exact ⟨⟨t, rfl⟩, ⟨g, rfl⟩⟩

/-- R111: a wait that reaches the delay takes the next result. -/
theorem waitFor_ends {s : State} {v : Word} {waited n : Nat} {conv : Word} {ad : List Word}
    (hf : s.dev.inFlight = some (v, waited)) (hd : s.cfg.convDelay ≤ waited + n) (ha : s.adc = conv :: ad) :
    waitFor n s = { s with dev := { s.dev with conv := conv, inFlight := none }, adc := ad, fresh := s.fresh + 1 } := by
  simp [waitFor, hf, hd, ha]

/-- After the configuration write of `sample` (R84). -/
abbrev State.configured (s : State) : State :=
  s.wrote confPtr s.out.y (if replyReaches (nextReply s) then s.dev.writeConf s.cfg s.out.y else s.dev)

section
variable {s : State} (hc : s.cfg.wf = true) (k : Nat) (signed : Bool) (rest : List HostStep)
include hc

theorem run_alignSteps :
    run (k + (alignSteps signed).length) (s.withTodo (alignSteps signed ++ .seqEnd :: rest))
      = run k ((s.aligned signed).withTodo rest) := by
  have halign (j : Nat) (l : List HostStep) :
      run (j + 1) (s.withTodo (stepOf .align12 (.lit 0#8) .retValue :: l))
        = run j (((s.setIn 0x07#8 0#8 s.ret.value).setOut (align12 s.ret.value)).withTodo l) :=
    run_op hc j _ _ (perform_align12 ..) rfl rfl
  cases signed with
  | false =>
    refine (halign (k + 1) _).trans ?_
    exact run_returnY (s := (s.setIn 0x07#8 0#8 s.ret.value).setOut (align12 s.ret.value)) hc k
  | true =>
    refine (halign (k + 2) _).trans ?_
    refine (run_op (s := (s.setIn 0x07#8 0#8 s.ret.value).setOut (align12 s.ret.value)) hc (k + 1) _ _
      (perform_sext12 ..) rfl rfl).trans ?_
    exact run_returnY (s := (s.setIn 0x08#8 0#8 (align12 s.ret.value).y).setOut (sext12 (align12 s.ret.value).y)) hc k

/-- R84, R90: an encoder that refused ends `sample` at once. -/
theorem run_sample_refused (hgo : s.out.go = 0#1) :
    run (k + 2) (s.withTodo (.call (.sample signed) :: rest)) = run k ((s.returnsError s.out.st).withTodo rest) := by
  rw [run_call hc, expand_sample, run_ifGoZero_return hc _ hgo]
  simp only [afterReturn, afterReturn_alignSteps]

variable (hh : s.handle = true) (hgo : s.out.go = 1#1)
include hh hgo

theorem run_sample_write :
    run (k + 6) (s.withTodo (.call (.sample signed) :: rest))
      = run k (s.configured.withTodo (.ifNotOk :: .wait s.cfg.convDelay :: .call (.readReg convPtr) :: .ifNotOk
          :: (alignSteps signed ++ .seqEnd :: rest))) := by
  rw [run_call hc, expand_sample, run_ifGoZero_pass hc _ hgo]
  exact run_writeReg hc hh k confPtr .outY _ (afterFrame_confWrite ..)

/-- R84: the configuration write fails. -/
theorem run_sample_writeFailed (hr : replyOk (nextReply s) = false) :
    run (k + 7) (s.withTodo (.call (.sample signed) :: rest))
      = run k ((s.configured.returnsError 2#3).withTodo rest) := by
  have hret : s.configured.ret.status = 2#3 := by rw [State.returns_ret, hr]; rfl
  have hne : s.configured.ret.status ≠ 0#3 := by rw [hret]; decide
  rw [run_sample_write hc _ signed rest hh hgo, run_ifNotOk_return (s := s.configured) hc _ hne, hret]
  simp only [afterReturn, afterReturn_alignSteps]

/-- R84: the configuration write succeeds, and the host waits. -/
theorem run_sample_wait (hr : replyOk (nextReply s) = true) :
    run (k + 8) (s.withTodo (.call (.sample signed) :: rest))
      = run k ((waitFor s.cfg.convDelay s.configured).withTodo (.call (.readReg convPtr) :: .ifNotOk
          :: (alignSteps signed ++ .seqEnd :: rest))) := by
  have hret : s.configured.ret.status = 0#3 := by rw [State.returns_ret, hr]; rfl
  rw [run_sample_write hc _ signed rest hh hgo, run_ifNotOk_pass (s := s.configured) hc _ hret,
    run_wait (s := s.configured) hc]

end

/-! ### The undisturbed sample -/

/-- After the wait of an undisturbed sample: the conversion that the write started has ended with the result `conv`
(R111). -/
abbrev State.converted (s : State) (conv : Word) (ad : List Word) : State :=
  { s.configured with
    dev := { conf := s.out.y, conv := conv, ptr := confPtr, inFlight := none, convDefined := true, readEarly := false }
    adc := ad
    fresh := s.fresh + 2 }

/-- After the READ_REG of an undisturbed sample: around the block, the state that the statements name. -/
abbrev State.sampleRead (s : State) (conf conv w : Word) (sc : List BusReply) (ad : List Word) : State :=
  { s.sampled conf conv w sc ad with ret := ⟨w, 0#3⟩ }

theorem readWord_converted {s : State} {r : BusReply} {sc : List BusReply} (hs : s.script = .ok :: .ok :: r :: sc)
    {conv w : Word} (hw : Delivers r conv w) (ad : List Word) (l : List HostStep) :
    ((s.converted conv ad).readWord convPtr ((s.converted conv ad).dev.point convPtr) w).withTodo l
      = ((s.sampleRead s.out.y conv w sc ad).composed w).withTodo l := by
  have hlast : replyOk (nextReply ((s.converted conv ad).pointed convPtr ((s.converted conv ad).dev.point convPtr)))
      = true := by
    rw [nextReply_cons (r := r) (sc := sc) (congrArg (fun l => l.tail.tail) hs)]
    rcases hw with ⟨rfl, -⟩ | rfl <;> rfl
  simp only [State.readWord, State.composed, State.received, hlast]
  simp [State.withTodo, State.setIn, State.setOut, State.returns, State.sampled, sampleCalls, hs, Device.point, convPtr,
    confPtr]

/-- The last steps of `sample` write all the ports. -/
theorem aligned_composed (s : State) (w : Word) (signed : Bool) : (s.composed w).aligned signed = s.aligned signed := by
  cases signed <;> rfl

section
variable {s : State} (hc : s.cfg.wf = true) {t : Selection} {g : Fin 6} (hy : s.out.y = cfgword s.cfg (s.cfg.mux t) g)
  {conv : Word} {ad : List Word} (ha : s.adc = conv :: ad)
include hc hy ha

theorem waitFor_configured {sc : List BusReply} (hs : s.script = .ok :: sc) :
    waitFor s.cfg.convDelay s.configured = s.converted conv ad := by
  have hr : nextReply s = .ok := nextReply_cons hs
  have hos : fOs s.out.y = 1#1 := by rw [hy, fOs_cfgword, osStart_of_wf hc]
  have hdef : s.cfg.describedConversion s.out.y = true := by rw [hy, describedConversion_cfgword]
  have hflight : s.configured.dev.inFlight = some (s.out.y, 0) := by simp [hr, replyReaches, hos]
  refine (waitFor_ends hflight (Nat.zero_add _).ge ha).trans ?_
  simp [hr, replyReaches, Device.definedAfterWrite_start hos, hdef]

variable (hh : s.handle = true) (hgo : s.out.go = 1#1) {r : BusReply} {sc : List BusReply}
  (hs : s.script = .ok :: .ok :: r :: sc) {w : Word} (hw : Delivers r conv w) (k : Nat) (signed : Bool)
  (rest : List HostStep)
include hh hgo hs hw

/-- R84, R91: when its three calls succeed, `sample` ends with the result of the conversion that its own configuration
word started. -/
theorem run_sample_undisturbed :
    run (k + (alignSteps signed).length + 17) (s.withTodo (.call (.sample signed) :: rest))
      = run k (((s.sampleRead s.out.y conv w sc ad).aligned signed).withTodo rest) := by
  have hr : replyOk (nextReply s) = true := by rw [nextReply_cons hs]; rfl
  rw [run_sample_wait hc _ signed rest hh hgo hr, waitFor_configured hc hy ha hs,
    run_readReg_delivered (s := s.converted conv ad) hc hh (.inl rfl) (congrArg List.tail hs) hw
      (fun _ => ⟨rfl, rfl, rfl⟩),
    readWord_converted hs hw, run_ifNotOk_pass (s := (s.sampleRead s.out.y conv w sc ad).composed w) hc _ rfl,
    run_alignSteps (s := (s.sampleRead s.out.y conv w sc ad).composed w) hc, aligned_composed]

end

end Sys2Proof.Machine
end

section
/-! PROOFS. The sampling sequences and the measurements (spec 44_sample_sequences.md R84 to R89): an encoding operation,
the shared `sample`, and for a measurement the scaler. -/

namespace Sys2Proof.Machine

/-! ### An encoding operation and `sample` -/

/-- After an operation with the operands `b`, `a` that answered `r`. -/
abbrev State.answered (s : State) (o : Opcode) (b : Byte) (a : Word) (r : Result) : State :=
  (s.setIn o.code b a).setOut r

/-- The ports of the encoding operation are not seen after the last steps of `sample`. -/
theorem aligned_answered (s : State) (o : Opcode) (b : Byte) (a : Word) (r : Result) (conf conv w : Word)
    (sc : List BusReply) (ad : List Word) (signed : Bool) :
    ((s.answered o b a r).sampleRead conf conv w sc ad).aligned signed
      = (s.sampleRead conf conv w sc ad).aligned signed := by
  cases signed <;> rfl

section
variable {s : State} (hc : s.cfg.wf = true) (k : Nat) (signed : Bool) (rest : List HostStep) {o : Opcode} {b : Byte}
  {a : Word}
include hc

theorem run_encode {r : Result} (hr : perform s.cfg o.code b a = r) :
    run (k + 1) (s.withTodo (stepOf o (.lit b) (.lit a) :: rest)) = run k ((s.answered o b a r).withTodo rest) :=
  run_op hc k _ _ hr rfl rfl

/-- R90, R93, R94: `sample` ends at once after an encoder that refused. -/
theorem run_encode_refused {r : Result} (hr : perform s.cfg o.code b a = r) (hgo : r.go = 0#1) :
    run (k + 3) (s.withTodo (stepOf o (.lit b) (.lit a) :: .call (.sample signed) :: rest))
      = run k (((s.answered o b a r).returnsError r.st).withTodo rest) := by
  rw [run_encode hc _ _ hr]
  exact run_sample_refused (s := s.answered o b a r) hc k signed rest hgo

/-- R84, R91: an undisturbed sample after its encoder. -/
theorem run_encode_undisturbed (hh : s.handle = true) {t : Selection} {g : Fin 6} {conf : Word}
    (hconf : conf = cfgword s.cfg (s.cfg.mux t) g) (hr : perform s.cfg o.code b a = ⟨conf, 0#8, 1#1, 0#3⟩)
    {conv w : Word} {r : BusReply} {sc : List BusReply} {ad : List Word} (hs : s.script = .ok :: .ok :: r :: sc)
    (ha : s.adc = conv :: ad) (hw : Delivers r conv w) :
    run (k + (alignSteps signed).length + 18)
        (s.withTodo (stepOf o (.lit b) (.lit a) :: .call (.sample signed) :: rest))
      = run k (((s.sampleRead conf conv w sc ad).aligned signed).withTodo rest) := by
  rw [run_encode hc _ _ hr, ← aligned_answered s o b a ⟨conf, 0#8, 1#1, 0#3⟩]
  exact run_sample_undisturbed (s := s.answered o b a ⟨conf, 0#8, 1#1, 0#3⟩) hc hconf ha hh rfl hs hw k signed rest

end

/-! ### The sampling sequences -/

/-- R84 to R86: what the three sampling sequences are made of. -/
def IsSampling (q : HostSequence) (o : Opcode) (b : Byte) (a : Word) (signed : Bool) : Prop :=
  ∀ c, expand c q = encodedSampleSteps (stepOf o (.lit b) (.lit a)) signed

theorem isSampling_sampleSe (ch : Byte) (g : Word) : IsSampling (.sampleSe ch g) .encSe ch g false := fun _ => rfl

theorem isSampling_sampleD01 (g : Word) : IsSampling (.sampleD01 g) .encD01 0#8 g true := fun _ => rfl

theorem isSampling_sampleD23 (g : Word) : IsSampling (.sampleD23 g) .encD23 0#8 g true := fun _ => rfl

theorem exists_isSampling {q : HostSequence} {ch : Byte} {g : Word}
    (hq : q = .sampleSe ch g ∨ q = .sampleD01 g ∨ q = .sampleD23 g) :
    ∃ (o : Opcode) (b : Byte) (signed : Bool),
      (o = .encSe ∨ o = .encD01 ∨ o = .encD23) ∧ IsSampling q o b g signed := by
  rcases hq with rfl | rfl | rfl
  · exact ⟨_, _, _, .inl rfl, isSampling_sampleSe ch g⟩
  · exact ⟨_, _, _, .inr (.inl rfl), isSampling_sampleD01 g⟩
  · exact ⟨_, _, _, .inr (.inr rfl), isSampling_sampleD23 g⟩

/-- R43: the three encoders refuse a reserved gain index. -/
theorem perform_gainReserved (c : Config) {o : Opcode} (ho : o = .encSe ∨ o = .encD01 ∨ o = .encD23) (b : Byte)
    {a : Word} (ha : 5 < a.toNat) : perform c o.code b a = ⟨0#16, 0#8, 0#1, 4#3⟩ := by
  have hop : o.code = 0x03#8 ∨ o.code = 0x04#8 ∨ o.code = 0x05#8 := by rcases ho with rfl | rfl | rfl <;> decide
  exact perform_eq_illegalOperand (.inr (.inr (.inl ⟨hop, ha⟩)))

section
variable {s : State} (hc : s.cfg.wf = true) {q : HostSequence} {o : Opcode} {b : Byte}
  {a : Word} {signed : Bool} (hq : IsSampling q o b a signed)
include hc hq

theorem run_sampling (k : Nat) :
    run (k + 1) (s.starting q)
      = run k (s.withTodo (stepOf o (.lit b) (.lit a) :: .call (.sample signed) :: .seqEnd :: s.todo)) := by
  rw [starting_eq, run_call hc, hq s.cfg]
  rfl

/-- R90, R93, R94: an encoder that refuses ends the sequence with its status. -/
theorem run_sampling_refused {r : Result} (hr : perform s.cfg o.code b a = r) (hgo : r.go = 0#1) :
    run 5 (s.starting q) = .next (((s.answered o b a r).returnsError r.st).withTodo s.todo) := by
  rw [run_sampling hc hq, run_encode_refused hc 1 signed _ hr hgo]
  exact run_seqEnd (s := (s.answered o b a r).returnsError r.st) hc 0

/-- R84, R91: an undisturbed sampling sequence. -/
theorem run_sampling_undisturbed (hh : s.handle = true) {t : Selection} {g : Fin 6} {conf : Word}
    (hconf : conf = cfgword s.cfg (s.cfg.mux t) g) (hr : perform s.cfg o.code b a = ⟨conf, 0#8, 1#1, 0#3⟩)
    {conv w : Word} {r : BusReply} {sc : List BusReply} {ad : List Word} (hs : s.script = .ok :: .ok :: r :: sc)
    (ha : s.adc = conv :: ad) (hw : Delivers r conv w) :
    run ((alignSteps signed).length + 20) (s.starting q)
      = .next (((s.sampleRead conf conv w sc ad).aligned signed).withTodo s.todo) := by
  rw [run_sampling hc hq, show (alignSteps signed).length + 19 = 1 + (alignSteps signed).length + 18 by omega,
    run_encode_undisturbed hc 1 signed _ hh hconf hr hs ha hw]
  exact run_seqEnd (s := (s.sampleRead conf conv w sc ad).aligned signed) (by rw [aligned_cfg]; exact hc) 0

end

/-! ### The encoders of the sampling sequences -/

theorem perform_encSe (c : Config) (ch : Fin 4) (g : Fin 6) :
    perform c 0x03#8 (BitVec.ofNat 8 ch.val) (BitVec.ofNat 16 g.val) = ⟨cfgword c (c.muxSe ch) g, 0#8, 1#1, 0#3⟩ := by
  have hi := perform_instr c (.encSe (BitVec.ofNat 8 ch.val) (BitVec.ofNat 3 g.val))
  rw [Instr.portA, gainPort_ofNat] at hi
  exact hi.trans (encSe_ofNat c ch g)

theorem perform_encD01 (c : Config) (g : Fin 6) :
    perform c 0x04#8 0#8 (BitVec.ofNat 16 g.val) = ⟨cfgword c c.muxD01 g, 0#8, 1#1, 0#3⟩ := by
  have hi := perform_instr c (.encD01 (BitVec.ofNat 3 g.val))
  rw [Instr.portA, gainPort_ofNat] at hi
  exact hi.trans (encPairing_ofNat c _ g)

theorem perform_encD23 (c : Config) (g : Fin 6) :
    perform c 0x05#8 0#8 (BitVec.ofNat 16 g.val) = ⟨cfgword c c.muxD23 g, 0#8, 1#1, 0#3⟩ := by
  have hi := perform_instr c (.encD23 (BitVec.ofNat 3 g.val))
  rw [Instr.portA, gainPort_ofNat] at hi
  exact hi.trans (encPairing_ofNat c _ g)

/-- Settles O46: `sample` makes no call after an encoder that refused. -/
theorem refusedSampleMakesNoTransportCall : Obligations.RefusedSampleMakesNoTransportCall := by
  unfold Obligations.RefusedSampleMakesNoTransportCall
  intro s ch g hc
  refine ⟨fun hg hch => ?_, fun q hg hq => ?_⟩
  · exact ⟨_, run_sampling_refused hc (isSampling_sampleSe ch g) (perform_encSe_channelInvalid s.cfg hg hch) rfl,
      rfl, rfl, rfl, rfl, rfl⟩
  · obtain ⟨o, b, signed, ho, hsampling⟩ := exists_isSampling hq
    exact ⟨_, run_sampling_refused hc hsampling (perform_gainReserved s.cfg ho b hg) rfl, rfl, rfl, rfl, rfl, rfl⟩

/-- Settles O44: ALIGN12 divides by 16. -/
theorem sampleSingleEndedReturnsAlignedResult : Obligations.SampleSingleEndedReturnsAlignedResult := by
  unfold Obligations.SampleSingleEndedReturnsAlignedResult
  intro s ch g conv w r sc ad hc hh hs ha hw
  exact ⟨(align12 w).y, align12_y_toNat w,
    run_sampling_undisturbed hc (isSampling_sampleSe _ _) hh (t := .se ch) rfl (perform_encSe s.cfg ch g) hs ha hw⟩

/-- R71: the signed result of a word. -/
theorem toInt_sext12_align12 (w : Word) : (sext12 (align12 w).y).y.toInt = w.toInt / 16 := by
  rw [sext12_align12_y, toInt_sshiftRight_four]
  exact Rat.floor_intCast_div_natCast w.toInt 16

/-- R69: ALIGN12 as a number on a port. -/
theorem align12_y_eq_ofNat (w : Word) : (align12 w).y = BitVec.ofNat 16 (w.toNat / 16) := by
  rw [← align12_y_toNat, BitVec.ofNat_toNat, BitVec.setWidth_eq]

/-- Settles O45: ALIGN12 and SEXT12 together divide the signed word by 16, rounding down. -/
theorem sampleDifferentialReturnsSignedResult : Obligations.SampleDifferentialReturnsSignedResult := by
  unfold Obligations.SampleDifferentialReturnsSignedResult
  intro s q m g conv w r sc ad hc hh hs ha hw hq
  refine ⟨(sext12 (align12 w).y).y, toInt_sext12_align12 w, ?_⟩
  rw [← align12_y_eq_ofNat]
  rcases hq with ⟨rfl, rfl⟩ | ⟨rfl, rfl⟩
  · exact run_sampling_undisturbed hc (isSampling_sampleD01 _) hh (t := .d01) rfl (perform_encD01 s.cfg g) hs ha hw
  · exact run_sampling_undisturbed hc (isSampling_sampleD23 _) hh (t := .d23) rfl (perform_encD23 s.cfg g) hs ha hw

end Sys2Proof.Machine
end

section
/-! PROOFS. The measurements (spec 44_sample_sequences.md R87 to R89): a measurement configuration, the shared `sample`
and the scaler of the word's code. -/

namespace Sys2Proof.Machine

/-! ### A measurement -/

/-- R87 to R89: an undisturbed measurement ends with the scaled value and `OK`. -/
theorem run_measure_undisturbed {s : State} (hc : s.cfg.wf = true) (hh : s.handle = true) {q : HostSequence}
    {cfgOp scaleOp : Opcode} {signed : Bool} (hq : expand s.cfg q = measureSteps cfgOp signed scaleOp) {t : Selection}
    {g : Fin 6} {conf : Word} (hconf : conf = cfgword s.cfg (s.cfg.mux t) g)
    (hr : perform s.cfg cfgOp.code 0#8 0#16 = ⟨conf, 0#8, 1#1, 0#3⟩) {conv w : Word} {r : BusReply} {sc : List BusReply}
    {ad : List Word} (hs : s.script = .ok :: .ok :: r :: sc) (ha : s.adc = conv :: ad) (hw : Delivers r conv w) {y : Word}
    (hy : perform s.cfg scaleOp.code 0#8 (sampleValue signed w) = ⟨y, 0#8, 0#1, 0#3⟩) :
    run ((alignSteps signed).length + 22) (s.starting q) = .next { s.sampled conf conv w sc ad with
      op := scaleOp.code, b := 0#8, a := sampleValue signed w, out := ⟨y, 0#8, 0#1, 0#3⟩, ret := ⟨y, 0#3⟩ } := by
  have hcfg : ((s.sampleRead conf conv w sc ad).aligned signed).cfg = s.cfg := aligned_cfg ..
  have hret : ((s.sampleRead conf conv w sc ad).aligned signed).ret = ⟨sampleValue signed w, 0#3⟩ := aligned_ret ..
  have hlen : (alignSteps signed).length + 21 = 3 + (alignSteps signed).length + 18 := by omega
  rw [starting_eq, run_call hc, hq, hlen]
  refine (run_encode_undisturbed hc 3 signed _ hh hconf hr hs ha hw).trans ?_
  generalize hu : (s.sampleRead conf conv w sc ad).aligned signed = u at hcfg hret
  have huc : u.cfg.wf = true := hcfg ▸ hc
  refine (run_ifNotOk_pass huc 2 (by rw [hret])).trans ?_
  refine (run_op huc 1 _ _ (hcfg ▸ hy) rfl (by rw [ASource.eval, hret])).trans ?_
  refine (run_returnY (s := u.answered scaleOp 0#8 (sampleValue signed w) ⟨y, 0#8, 0#1, 0#3⟩) huc 0).trans ?_
  subst hu
  cases signed <;> rfl

/-! ### The voltages -/

/-- R69: the code of a word. -/
theorem toNat_code (w : Word) : (w.extractLsb' 4 12).toNat = w.toNat / 16 := by
  rw [← align12_y_toNat, align12_y, BitVec.toNat_setWidth_of_le (by decide)]

/-- R87, R88: an undisturbed measurement whose scaler is unsigned ends with the exact quotient. -/
theorem voltage_undisturbed {s : State} (hc : s.cfg.wf = true) (hh : s.handle = true) {q : HostSequence}
    {cfgOp scaleOp : Opcode} (hq : expand s.cfg q = measureSteps cfgOp false scaleOp) {t : Selection} {g : Fin 6}
    (hr : perform s.cfg cfgOp.code 0#8 0#16 = ⟨cfgword s.cfg (s.cfg.mux t) g, 0#8, 1#1, 0#3⟩) {num den : Nat}
    (hbound : scaleU 4095 num den ≤ 65535)
    (hscale : ∀ code : BitVec 12,
      perform s.cfg scaleOp.code 0#8 (code.setWidth 16) = scaleUnsigned num den (code.setWidth 16))
    {conv w : Word} {r : BusReply} {sc : List BusReply} {ad : List Word} (hs : s.script = .ok :: .ok :: r :: sc)
    (ha : s.adc = conv :: ad) (hw : Delivers r conv w) :
    ∃ y : Word, y.toNat = w.toNat / 16 * num / den
      ∧ run 24 (s.starting q) = .next { s.sampled (cfgword s.cfg (s.cfg.mux t) g) conv w sc ad with
          op := scaleOp.code, b := 0#8, a := BitVec.ofNat 16 (w.toNat / 16), out := ⟨y, 0#8, 0#1, 0#3⟩,
          ret := ⟨y, 0#3⟩ } := by
  have hy := hscale (w.extractLsb' 4 12)
  rw [scaleUnsigned_code, ← align12_y] at hy
  refine ⟨_, (toNat_scaledCode hbound (w.extractLsb' 4 12)).trans (by rw [toNat_code]), ?_⟩
  rw [← align12_y_eq_ofNat]
  exact run_measure_undisturbed hc hh hq rfl hr hs ha hw hy

/-- Settles O47: channel 3 at gain index 1, and the pack constants. -/
theorem packMvReturnsScaledMillivolts : Obligations.PackMvReturnsScaledMillivolts := by
  unfold Obligations.PackMvReturnsScaledMillivolts
  intro s conv w r sc ad hc hh hs ha hw
  obtain ⟨hbound, -, -⟩ := scaledBounds_of_wf hc
  have hcfg : perform s.cfg 0x09#8 0#8 0#16 = ⟨cfgword s.cfg s.cfg.muxSe3 1, 0#8, 1#1, 0#3⟩ :=
    (perform_instr s.cfg .cfgPack).trans (cfgPack_of_wf hc)
  have hscale (code : BitVec 12) := perform_instr s.cfg (.scalePack code)
  exact voltage_undisturbed hc hh (cfgOp := .cfgPack) (scaleOp := .scalePack) rfl (t := .se 3) hcfg hbound hscale hs ha
    hw

/-- Settles O48: channel 2 at gain index 2, and the charger constants. -/
theorem chgMvReturnsScaledMillivolts : Obligations.ChgMvReturnsScaledMillivolts := by
  unfold Obligations.ChgMvReturnsScaledMillivolts
  intro s conv w r sc ad hc hh hs ha hw
  obtain ⟨-, hbound, -⟩ := scaledBounds_of_wf hc
  have hcfg : perform s.cfg 0x0A#8 0#8 0#16 = ⟨cfgword s.cfg s.cfg.muxSe2 2, 0#8, 1#1, 0#3⟩ :=
    (perform_instr s.cfg .cfgChgv).trans (cfgChgv_of_wf hc)
  have hscale (code : BitVec 12) := perform_instr s.cfg (.scaleChgv code)
  exact voltage_undisturbed hc hh (cfgOp := .cfgChgv) (scaleOp := .scaleChgv) rfl (t := .se 2) hcfg hbound hscale hs ha
    hw

/-! ### The current -/

/-- Settles O49: the code of a word is in the range of the current scaler, which negates after the scaling. -/
theorem chgMaReturnsSignedMilliamps : Obligations.ChgMaReturnsSignedMilliamps := by
  unfold Obligations.ChgMaReturnsSignedMilliamps
  intro s conv w r sc ad hc hh hs ha hw
  have hraw : (sampleValue true w).toInt = w.toInt / 16 := toInt_sext12_align12 w
  have hlo : -2048 ≤ (sampleValue true w).toInt := by have := w.le_toInt; omega
  have hhi : (sampleValue true w).toInt ≤ 2047 := by have := w.toInt_lt; omega
  have hy := toInt_ofInt_of_natAbs_le (natAbs_chargerCurrent_le hc hlo hhi)
  refine ⟨BitVec.ofInt 16 (chargerCurrent s.cfg (sampleValue true w).toInt), sampleValue true w, hraw,
    fun hn => ?_, fun hn => ?_, ?_⟩
  · exact hy.trans (chargerCurrent_direct hn _)
  · exact hy.trans (chargerCurrent_negated hn _)
  · have hcfg : perform s.cfg 0x0B#8 0#8 0#16 = ⟨cfgword s.cfg s.cfg.muxD01 s.cfg.maGain, 0#8, 1#1, 0#3⟩ :=
      perform_instr s.cfg .cfgChgi
    have hscale : perform s.cfg 0x0E#8 0#8 (sampleValue true w) = scaleChgi s.cfg (sampleValue true w) :=
      perform_instr s.cfg (.scaleChgi (sampleValue true w))
    rw [scaleChgi_legal s.cfg hlo hhi] at hscale
    exact run_measure_undisturbed hc hh (cfgOp := .cfgChgi) (scaleOp := .scaleChgi) (signed := true) rfl (t := .d01) rfl
      hcfg hs ha hw hscale

end Sys2Proof.Machine
end

section
/-! PROOFS. Every sampling sequence ends (spec 44_sample_sequences.md R90), whatever the transport answers and whatever the
script holds: at most three calls, and none exactly when the encoder refused. -/

namespace Sys2Proof.Machine

/-- The sequence `q`, started in `s`, ends in `t` within `n` steps and makes the calls `calls`, whatever the host does
next. -/
structure EndsWithin (q : HostSequence) (n : Nat) (s t : State) (calls : List BusCall) : Prop where
  steps : ∃ m ≤ n, ∀ k rest, run (k + m) (s.withTodo (.call q :: rest)) = run k (t.withTodo rest)
  cfg : t.cfg = s.cfg
  log : t.log = s.log ++ calls

/-- R83: a READ_REG of the conversion register ends in `OK` or `BusError`. -/
theorem readConv_ends {s : State} (hc : s.cfg.wf = true) (hh : s.handle = true) :
    ∃ t calls, EndsWithin (.readReg convPtr) 8 s t calls ∧ (t.ret.status = 0#3 ∨ t.ret.status = 2#3)
      ∧ calls <+: [.transmit s.cfg.devAddr [convPtr] 100, .receive s.cfg.devAddr 2 100] := by
  cases hr : replyOk (nextReply s) with
  | false =>
    have htake : s.dev.takeFrame s.cfg [convPtr] = some (s.dev.point convPtr) := takeFrame_pointer (.inl rfl)
    have hd := afterFrame_of_takeFrame htake (nextReply s)
    exact ⟨_, [_], ⟨⟨4, by decide, fun k rest => run_readReg_pointerFailed hc hh k rest hd hr⟩, rfl, rfl⟩, .inr rfl,
      [_], rfl⟩
  | true =>
    have hd := afterFrame_pointer_ok (c := s.cfg) (d := s.dev) (p := convPtr) (.inl rfl) hr
    obtain ⟨v, hv⟩ := Device.exists_read (d := s.dev.point convPtr) (.inl rfl) (s.fresh + 1)
    generalize hbytes : receivedBytes v (nextReply (s.pointed convPtr (s.dev.point convPtr))) = bytes
    by_cases hlen : bytes.length = 2
    · obtain ⟨hi, lo, rfl⟩ := List.length_eq_two.mp hlen
      have hw : wordBytes (hi ++ lo) = [hi, lo] := by rw [wordBytes, extract_hi_append, extract_lo_append]
      rw [← hw] at hbytes
      exact ⟨_, _, ⟨⟨8, by decide, fun k rest => run_readReg_composed hc hh k rest hd hr hv hbytes⟩, rfl,
        List.append_assoc ..⟩, .inl rfl, List.prefix_rfl⟩
    · exact ⟨_, _, ⟨⟨6, by decide, fun k rest => run_readReg_receiveFailed hc hh k rest hd hr hv hbytes hlen⟩, rfl,
        List.append_assoc ..⟩, .inr rfl, List.prefix_rfl⟩

/-- What `sample` returns when its encoder did not refuse: a value and `OK`, or `BusError` with value 0 (R84). -/
def SampleReturn (x : Returned) : Prop := x.status = 0#3 ∨ x = ⟨0#16, 2#3⟩

/-- R84: when the configuration write succeeds, `sample` ends after its READ_REG. -/
theorem EndsWithin.sample_of_readConv {s t : State} {calls : List BusCall}
    (h : EndsWithin (.readReg convPtr) 8 (waitFor s.cfg.convDelay s.configured) t calls) (hc : s.cfg.wf = true)
    (hh : s.handle = true) (hgo : s.out.go = 1#1) (hr : replyOk (nextReply s) = true)
    (hstatus : t.ret.status = 0#3 ∨ t.ret.status = 2#3) (signed : Bool) :
    ∃ u, EndsWithin (.sample signed) 20 s u (.transmit s.cfg.devAddr (writeFrame confPtr s.out.y) 100 :: calls)
      ∧ SampleReturn u.ret := by
  obtain ⟨hwcfg, -, -, -, -, -, -, -, -, -, hwlog, -⟩ := waitFor_frame s.cfg.convDelay s.configured
  obtain ⟨⟨m, hm, hread⟩, htcfg, htlog⟩ := h
  have hcfg : t.cfg = s.cfg := htcfg.trans hwcfg
  have htc : t.cfg.wf = true := hcfg ▸ hc
  have hlog : t.log = s.log ++ .transmit s.cfg.devAddr (writeFrame confPtr s.out.y) 100 :: calls := by
    rw [htlog, hwlog]
    exact List.append_assoc ..
  have hrun (k : Nat) (rest : List HostStep) :
      run (k + m + 8) (s.withTodo (.call (.sample signed) :: rest))
        = run k (t.withTodo (.ifNotOk :: (alignSteps signed ++ .seqEnd :: rest))) :=
    (run_sample_wait hc (k + m) signed rest hh hgo hr).trans (hread k _)
  rcases hstatus with hok | hfail
  · have hlen : (alignSteps signed).length ≤ 3 := by cases signed <;> decide
    refine ⟨t.aligned signed, ⟨⟨(alignSteps signed).length + 1 + m + 8, by omega, fun k rest => ?_⟩,
      (aligned_cfg t signed).trans hcfg, (aligned_log t signed).trans hlog⟩, .inl (by rw [aligned_ret])⟩
    simp only [← Nat.add_assoc]
    rw [hrun, run_ifNotOk_pass htc _ hok, run_alignSteps htc]
  · have hne : t.ret.status ≠ 0#3 := by rw [hfail]; decide
    refine ⟨t.returnsError 2#3, ⟨⟨1 + m + 8, by omega, fun k rest => ?_⟩, hcfg, hlog⟩, .inr rfl⟩
    simp only [← Nat.add_assoc]
    rw [hrun, run_ifNotOk_return htc _ hne, hfail, afterReturn_alignSteps]

/-- R84: after an encoder that did not refuse, `sample` makes its calls in order, up to the first that fails. -/
theorem sample_ends {s : State} (hc : s.cfg.wf = true) (hh : s.handle = true) (hgo : s.out.go = 1#1) (signed : Bool) :
    ∃ t calls, EndsWithin (.sample signed) 20 s t calls ∧ SampleReturn t.ret ∧ calls <+: sampleCalls s.cfg s.out.y
      ∧ calls ≠ [] := by
  cases hr : replyOk (nextReply s) with
  | false =>
    exact ⟨_, [_], ⟨⟨7, by decide, fun k rest => run_sample_writeFailed hc k signed rest hh hgo hr⟩, rfl, rfl⟩,
      .inr rfl, ⟨_, rfl⟩, nofun⟩
  | true =>
    obtain ⟨hwcfg, -, -, -, -, -, -, -, -, hwh, -, -⟩ := waitFor_frame s.cfg.convDelay s.configured
    obtain ⟨t, calls, hread, hstatus, hcalls⟩ := readConv_ends (s := waitFor s.cfg.convDelay s.configured)
      (by rw [hwcfg]; exact hc) (hwh.trans hh)
    obtain ⟨u, hends, hret⟩ := hread.sample_of_readConv hc hh hgo hr hstatus signed
    rw [hwcfg] at hcalls
    exact ⟨u, _, hends, hret, (List.prefix_cons_inj _).mpr hcalls, nofun⟩

/-! ### The encoders -/

theorem perform_wellShaped (o : Opcode) (c : Config) (b : Byte) (a : Word) : (perform c o.code b a).WellShaped o := by
  unfold perform
  split_ifs
  · exact Result.error_wellShaped o _
  · exact Result.error_wellShaped o _
  · exact Result.error_wellShaped o _
  · exact Result.error_wellShaped o _
  · exact performRule_wellShaped o c b a

/-- R13, R93, R94: an encoder either sets `go` or refuses with one of two statuses. -/
theorem perform_encoder (c : Config) {o : Opcode} (ho : IsEncoder o) (b : Byte) (a : Word) :
    (perform c o.code b a).go = 1#1
      ∨ (perform c o.code b a).go = 0#1 ∧ ((perform c o.code b a).st = 1#3 ∨ (perform c o.code b a).st = 4#3) := by
  obtain ⟨herror, hgo⟩ := perform_wellShaped o c b a
  rcases perform_statusLegal c o.code b a with hst | hst
  · exact .inl (hgo.mpr ⟨hst, ho⟩)
  · have hne : (perform c o.code b a).st ≠ 0#3 := by rcases hst with hst | hst <;> rw [hst] <;> decide
    exact .inr ⟨(herror hne).2.2, hst⟩

/-- Settles O52: by whether the encoder refuses. -/
theorem samplesEndAfterAtMostThreeCalls : Obligations.SamplesEndAfterAtMostThreeCalls := by
  unfold Obligations.SamplesEndAfterAtMostThreeCalls
  intro s q ch g hc hh hq
  obtain ⟨o, b, signed, ho, hsampling⟩ := exists_isSampling hq
  have hencoder : IsEncoder o := by rcases ho with rfl | rfl | rfl <;> decide
  generalize hr : perform s.cfg o.code b g = r
  have hrefuses := perform_encoder s.cfg hencoder b g
  rw [hr] at hrefuses
  rcases hrefuses with hgo | ⟨hgo, hst⟩
  · obtain ⟨t, calls, ⟨⟨m, hm, hrun⟩, htcfg, htlog⟩, hret, hprefix, hcalls⟩ :=
      sample_ends (s := s.answered o b g r) hc hh hgo signed
    have htc : t.cfg.wf = true := htcfg ▸ hc
    refine ⟨1 + m + 2, t.withTodo s.todo, by omega, ?_, rfl, fun hne => ?_, calls, htlog, hprefix.length_le,
      iff_of_false hcalls ?_⟩
    · calc run (1 + m + 2) (s.starting q)
          = run (1 + m + 1) (s.withTodo _) := run_sampling hc hsampling _
        _ = run (1 + m) ((s.answered o b g r).withTodo _) := run_encode hc _ _ hr
        _ = run 1 (t.withTodo _) := hrun ..
        _ = .next (t.withTodo s.todo) := run_seqEnd htc 0
    · rcases hret with h0 | h2
      · exact absurd h0 hne
      · exact congrArg Returned.value h2
    · have hstatus : t.ret.status = 0#3 ∨ t.ret.status = 2#3 := hret.imp_right (congrArg Returned.status)
      change ¬ (t.ret.status = 1#3 ∨ t.ret.status = 4#3)
      rcases hstatus with h | h <;> rw [h] <;> decide
  · refine ⟨5, _, by decide, run_sampling_refused hc hsampling hr hgo, rfl, fun _ => rfl, [], ?_, by decide,
      iff_of_true rfl hst⟩
    exact (List.append_nil _).symm

end Sys2Proof.Machine
end

section
/-! PROOFS. Errors (spec 60_exceptions.md R95, R98 to R101): an error of the block is a record on its ports and nothing
more, and an error of the transport ends the sequence that made the call. -/

namespace Sys2Proof.Machine

/-! ### Errors of the block -/

/-- Settles O7: step 3 of R56 stops the word before step 4 looks at the channel. -/
theorem illegalOperandComesBeforeInvalidChannel : Obligations.IllegalOperandComesBeforeInvalidChannel := by
  unfold Obligations.IllegalOperandComesBeforeInvalidChannel
  intro s b a hc ha _
  have hillegal : operandIllegal s.cfg 0x03#8 a := .inl ⟨.inl rfl, ha⟩
  exact answers_illegalOperand hc (.inr (.inr hillegal))

/-- Settles O10: the state with a record on its ports, an error or not, has the same `Config`, on which alone the record
of the next word depends (R11). -/
theorem errorLeavesTheNextOperationAlone : Obligations.ErrorLeavesTheNextOperationAlone := by
  unfold Obligations.ErrorLeavesTheNextOperationAlone
  intro s op b op' b' a a' k hc _
  exact outputsDependOnInputsAlone s ((s.setIn op b a).setOut ⟨0#16, 0#8, 0#1, k⟩) op' b' a' hc rfl

/-! ### The first failed call of `sample` -/

/-- When `sample` starts its READ_REG (R84). -/
abbrev State.waited (s : State) : State := waitFor s.cfg.convDelay s.configured

/-- R84: up to its READ_REG `sample` has made one call. -/
theorem waited_frame (s : State) :
    s.waited.cfg = s.cfg ∧ s.waited.handle = s.handle
      ∧ s.waited.log = s.log ++ [.transmit s.cfg.devAddr (writeFrame confPtr s.out.y) 100]
      ∧ s.waited.script = s.script.tail := by
  obtain ⟨hcfg, -, -, -, -, -, -, -, -, hhandle, hlog, hscript⟩ := waitFor_frame s.cfg.convDelay s.configured
  exact ⟨hcfg, hhandle, hlog, hscript⟩

/-- R95: a READ_REG that returns `BusError` after `m` steps ends `sample` in the next one. -/
theorem run_sample_readFailed {s t : State} (hc : s.cfg.wf = true) (hh : s.handle = true) (hgo : s.out.go = 1#1)
    (hr : replyOk (nextReply s) = true) {m : Nat}
    (hread : ∀ k rest, run (k + m) (s.waited.withTodo (.call (.readReg convPtr) :: rest)) = run k (t.withTodo rest))
    (hcfg : t.cfg = s.waited.cfg) (hfail : t.ret.status = 2#3) (signed : Bool) (rest : List HostStep) :
    run (m + 9) (s.withTodo (.call (.sample signed) :: rest)) = .next ((t.returnsError 2#3).withTodo rest) := by
  obtain ⟨hwcfg, -⟩ := waited_frame s
  have htc : t.cfg.wf = true := by rw [hcfg, hwcfg]; exact hc
  have hne : t.ret.status ≠ 0#3 := by rw [hfail]; decide
  rw [show m + 9 = 1 + m + 8 by omega, run_sample_wait hc _ signed rest hh hgo hr, hread,
    run_ifNotOk_return htc _ hne, hfail, afterReturn_alignSteps, run_zero]

/-- Settles O50: by the call that fails, the configuration write, the pointer frame or the receive. -/
theorem sampleStopsAtTheFirstBusFailure : Obligations.SampleStopsAtTheFirstBusFailure := by
  unfold Obligations.SampleStopsAtTheFirstBusFailure
  intro s signed reached sc r hc hh hgo
  obtain ⟨hwcfg, hwh, hwlog, hwscript⟩ := waited_frame s
  have hwc : s.waited.cfg.wf = true := by rw [hwcfg]; exact hc
  rw [hh] at hwh
  rw [starting_eq]
  refine ⟨fun hs => ?_, fun hs => ?_, fun hs hfail => ?_⟩
  · have hr : replyOk (nextReply s) = false := by rw [nextReply_cons hs]; rfl
    exact ⟨_, run_sample_writeFailed hc 0 signed s.todo hh hgo hr, rfl, rfl, rfl⟩
  · have hr : replyOk (nextReply s) = true := by rw [nextReply_cons hs]; rfl
    rw [hs] at hwscript
    have hr1 : replyOk (nextReply s.waited) = false := by rw [nextReply_cons hwscript]; rfl
    have hd := afterFrame_of_takeFrame (c := s.waited.cfg) (d := s.waited.dev) (takeFrame_pointer (.inl rfl))
      (nextReply s.waited)
    refine ⟨_, run_sample_readFailed hc hh hgo hr
      (fun k rest => run_readReg_pointerFailed hwc hwh k rest hd hr1) rfl rfl signed s.todo, rfl, rfl, ?_⟩
    change s.waited.log ++ [.transmit s.waited.cfg.devAddr [convPtr] 100] = _
    rw [hwlog, hwcfg, List.append_assoc]
    rfl
  · have hr : replyOk (nextReply s) = true := by rw [nextReply_cons hs]; rfl
    rw [hs] at hwscript
    obtain ⟨hr1, hr2⟩ := nextReply_readReg hwscript convPtr (s.waited.dev.point convPtr)
    have hok : replyOk (nextReply s.waited) = true := by rw [hr1]; rfl
    have hd := afterFrame_pointer_ok (c := s.waited.cfg) (d := s.waited.dev) (.inl rfl) hok
    obtain ⟨v, hv⟩ := Device.exists_read (d := s.waited.dev.point convPtr) (.inl rfl) (s.waited.fresh + 1)
    have hlen : (receivedBytes v r).length ≠ 2 := by
      rcases hfail with rfl | ⟨bytes, rfl, hlen⟩
      · exact Nat.zero_ne_add_one 1
      · exact hlen
    refine ⟨_, run_sample_readFailed hc hh hgo hr
      (fun k rest => run_readReg_receiveFailed hwc hwh k rest hd hok hv (congrArg _ hr2) hlen) rfl rfl signed s.todo,
      rfl, rfl, ?_⟩
    change s.waited.log ++ [.transmit s.waited.cfg.devAddr [convPtr] 100] ++ [.receive s.waited.cfg.devAddr 2 100] = _
    rw [hwlog, hwcfg, List.append_assoc, List.append_assoc]
    rfl

/-! ### A measurement ends -/

/-- R87 to R89: what the three measurements are made of. -/
theorem exists_measureSteps {q : HostSequence} (hq : q = .packMv ∨ q = .chgMv ∨ q = .chgMa) (c : Config) :
    ∃ (cfgOp scaleOp : Opcode) (signed : Bool),
      (cfgOp = .cfgPack ∨ cfgOp = .cfgChgv ∨ cfgOp = .cfgChgi) ∧ expand c q = measureSteps cfgOp signed scaleOp := by
  rcases hq with rfl | rfl | rfl
  · exact ⟨_, _, _, .inl rfl, rfl⟩
  · exact ⟨_, _, _, .inr (.inl rfl), rfl⟩
  · exact ⟨_, _, _, .inr (.inr rfl), rfl⟩

/-- R74 to R76: a measurement configuration always completes. -/
theorem perform_measureConfig_go (c : Config) {o : Opcode} (ho : o = .cfgPack ∨ o = .cfgChgv ∨ o = .cfgChgi) :
    (perform c o.code 0#8 0#16).go = 1#1 := by
  rcases ho with rfl | rfl | rfl
  · exact congrArg Result.go (perform_instr c .cfgPack)
  · exact congrArg Result.go (perform_instr c .cfgChgv)
  · exact congrArg Result.go (perform_instr c .cfgChgi)

/-- R87 to R89, R101: after its `sample` a measurement passes an error on, or returns what its scaler answered. -/
theorem run_measureEnd {s : State} (hc : s.cfg.wf = true) (hret : SampleReturn s.ret) (scaleOp : Opcode)
    (rest : List HostStep) :
    ∃ (m : Nat) (t : State), m ≤ 3
      ∧ run m (s.withTodo (.ifNotOk :: stepOf scaleOp (.lit 0#8) .retValue :: .returnY :: .seqEnd :: rest)) = .next t
      ∧ t.todo = rest ∧ SampleReturn t.ret ∧ t.log = s.log := by
  rcases hret with hok | hfail
  · generalize hy : perform s.cfg scaleOp.code 0#8 s.ret.value = r
    refine ⟨3, (((s.answered scaleOp 0#8 s.ret.value r).returns r.y 0#3).withTodo rest), le_rfl, ?_, rfl, .inl rfl, rfl⟩
    rw [run_ifNotOk_pass hc _ hok]
    refine (run_op hc 1 _ _ hy rfl rfl).trans ?_
    exact run_returnY (s := s.answered scaleOp 0#8 s.ret.value r) hc 0
  · have hstatus : s.ret.status = 2#3 := congrArg Returned.status hfail
    have hne : s.ret.status ≠ 0#3 := by rw [hstatus]; decide
    refine ⟨1, (s.returnsError 2#3).withTodo rest, by decide, ?_, rfl, .inr rfl, rfl⟩
    rw [run_ifNotOk_return hc _ hne, hstatus]
    rfl

/-- Settles O51: a measurement configuration always completes, so `sample` makes its calls up to the first that fails. -/
theorem measurementsEndWithOkOrBusError : Obligations.MeasurementsEndWithOkOrBusError := by
  unfold Obligations.MeasurementsEndWithOkOrBusError
  intro s q hc hh hq
  obtain ⟨cfgOp, scaleOp, signed, hcfgOp, hexpand⟩ := exists_measureSteps hq s.cfg
  generalize hr : perform s.cfg cfgOp.code 0#8 0#16 = r
  have hgo : r.go = 1#1 := hr ▸ perform_measureConfig_go s.cfg hcfgOp
  obtain ⟨t, calls, ⟨⟨m, hm, hrun⟩, htcfg, htlog⟩, hret, hprefix, -⟩ :=
    sample_ends (s := s.answered cfgOp 0#8 0#16 r) hc hh hgo signed
  have htc : t.cfg.wf = true := htcfg ▸ hc
  obtain ⟨j, u, hj, hend, hutodo, huret, hulog⟩ := run_measureEnd htc hret scaleOp s.todo
  refine ⟨j + m + 2, u, by omega, ?_, hutodo, ?_, calls, hulog.trans htlog, hprefix.length_le⟩
  · calc run (j + m + 2) (s.starting q)
        = run (j + m + 1) (s.withTodo (measureSteps cfgOp signed scaleOp ++ .seqEnd :: s.todo)) := by
          rw [starting_eq, run_call hc, hexpand]
      _ = run (j + m) ((s.answered cfgOp 0#8 0#16 r).withTodo _) := run_encode hc _ _ hr
      _ = run j (t.withTodo _) := hrun ..
      _ = .next u := hend
  · exact huret.imp_right fun hx => ⟨congrArg Returned.status hx, congrArg Returned.value hx⟩

end Sys2Proof.Machine
end

section
/-! PROOFS. Hazards (spec 70_reset_and_hazards.md R111, R115): when a wait ends the conversion, what a read of the
conversion register delivers that was started before or after that, and how a run ends. -/

namespace Sys2Proof.Machine

/-! ### What a wait does, by the conversion in progress -/

/-- After a wait that ended a conversion with the result `x` (R111). -/
abbrev State.conversionEnded (s : State) (x : Word) (ad : List Word) : State :=
  { s with dev := { s.dev with conv := x, inFlight := none }, adc := ad, fresh := s.fresh + 1 }

section
variable {s : State} {v : Word} {waited t : Nat}

/-- R111: a wait that reaches the delay ends the conversion with the next result, a free one when the list is used up. -/
theorem waitFor_of_elapsed (hf : s.dev.inFlight = some (v, waited)) (hd : s.cfg.convDelay ≤ waited + t) :
    ∃ r : Word, (∀ x ad, s.adc = x :: ad → r = x) ∧ waitFor t s = s.conversionEnded r s.adc.tail := by
  cases ha : s.adc with
  | nil => exact ⟨Config.freeConversion s.fresh v, nofun, by simp [waitFor, hf, hd, ha]⟩
  | cons x ad => exact ⟨x, fun _ _ h => (List.cons.inj h).1, waitFor_ends hf hd ha⟩

/-- A shorter wait only adds to the time waited (log entry 14). -/
theorem waitFor_of_not_elapsed (hf : s.dev.inFlight = some (v, waited)) (hd : waited + t < s.cfg.convDelay) :
    waitFor t s = { s with dev := { s.dev with inFlight := some (v, waited + t) } } := by
  simp [waitFor, hf, Nat.not_le.mpr hd]

end

theorem waitFor_of_idle {s : State} (hf : s.dev.inFlight = none) (t : Nat) : waitFor t s = s := by
  simp [waitFor, hf]

/-- A wait changes neither the register pointer nor what the device keeps of the start of a read. -/
theorem waitFor_read_start (t : Nat) (s : State) :
    (waitFor t s).dev.ptr = s.dev.ptr ∧ (waitFor t s).dev.readEarly = s.dev.readEarly := by
  rcases waitFor_cases t s with ⟨-, h⟩ | ⟨v, waited, -, ⟨-, r, h⟩ | ⟨-, h⟩⟩ <;> rw [h] <;> exact ⟨rfl, rfl⟩

theorem step_wait {s : State} {t : Nat} {rest : List HostStep} (hc : s.cfg.wf = true) (ht : s.todo = .wait t :: rest) :
    step s = .next ((waitFor t s).withTodo rest) :=
  (step_cons hc ht).trans (congrArg _ (waitFor_withTodo t s rest))

/-- Settles O39: the step is the wait, by whether a conversion is in progress and whether the delay has passed. -/
theorem waitingTheDelayEndsTheConversion : Obligations.WaitingTheDelayEndsTheConversion := by
  unfold Obligations.WaitingTheDelayEndsTheConversion
  refine ⟨fun s t waited v rest hc ht hf => ⟨fun hd => ?_, fun hd => ?_⟩, fun s t rest hc ht hf => ?_⟩
  · obtain ⟨r, hr, hwait⟩ := waitFor_of_elapsed hf hd
    exact ⟨r, hr, by rw [step_wait hc ht, hwait]; rfl⟩
  · rw [step_wait hc ht, waitFor_of_not_elapsed hf hd]
    rfl
  · rw [step_wait hc ht, waitFor_of_idle hf]
    rfl

/-! ### A read of the conversion register around a wait -/

/-- After a pointer frame that started a read of the conversion register (R30). -/
abbrev State.readStarted (s : State) : State := s.transmitted [convPtr] (s.dev.point convPtr)

theorem withTodo_of_todo {s : State} {l : List HostStep} (h : s.todo = l) : s.withTodo l = s := by
  subst h
  rfl

/-- The pointer frame of the conversion register is transmitted and reaches the device. -/
theorem run_startRead {s : State} (hc : s.cfg.wf = true) (hh : s.handle = true)
    (hr : replyReaches (nextReply s) = true) (k : Nat) (rest : List HostStep) :
    run (k + 1) (s.withTodo (.tx (.pointer (.lit convPtr)) :: rest)) = run k (s.readStarted.withTodo rest) := by
  have hd : s.dev.afterFrame s.cfg [convPtr] (nextReply s) = some (s.dev.point convPtr) := by
    rw [afterFrame_of_takeFrame (takeFrame_pointer (.inl rfl)), if_pos hr]
  exact run_tx hc k hh _ hd rfl

/-- A receive of the device's own two bytes, as the last step of a run. -/
theorem run_receive_ok {s : State} (hc : s.cfg.wf = true) (hh : s.handle = true) (hr : nextReply s = .ok) {v : Word}
    (hv : s.dev.read s.fresh = some v) (rest : List HostStep) :
    run 1 (s.withTodo (.rx :: rest)) = .next ((s.received (wordBytes v)).withTodo rest) := by
  rw [run_rx hc 0 hh hv, hr]
  rfl

/-- Settles O55: the device keeps that the read was started in a conversion, and no wait changes that. -/
theorem readStartedBeforeTheDelayIsFree : Obligations.ReadStartedBeforeTheDelayIsFree := by
  unfold Obligations.ReadStartedBeforeTheDelayIsFree
  intro s t waited v rest r sc hc hh hf hr ht hs
  have hreach : replyReaches (nextReply s) = true := by rw [nextReply_cons hs, replyReaches_iff]; exact hr
  obtain ⟨hcfg, -, -, -, -, -, -, -, -, hhandle, -, hscript⟩ := waitFor_frame t s.readStarted
  obtain ⟨hptr, hearly⟩ := waitFor_read_start t s.readStarted
  have hunsettled : (waitFor t s.readStarted).dev.settled = false := by
    have hstarted : s.readStarted.dev.readEarly = true := by rw [Device.point_readEarly, hf]; rfl
    exact (Device.settled_eq_false_iff _).mpr (.inr (.inl (hearly.trans hstarted)))
  have hok : nextReply (waitFor t s.readStarted) = .ok :=
    nextReply_cons (hscript.trans (congrArg List.tail hs))
  refine ⟨(waitFor t s.readStarted).fresh,
    ((waitFor t s.readStarted).received (wordBytes (Config.freeRead _))).withTodo rest, ?_, rfl, rfl, fun hd => ?_⟩
  · calc run 3 s
        = run 3 (s.withTodo (.tx (.pointer (.lit convPtr)) :: .wait t :: .rx :: rest)) :=
          congrArg _ (withTodo_of_todo ht).symm
      _ = run 2 (s.readStarted.withTodo (.wait t :: .rx :: rest)) := run_startRead hc hh hreach 2 _
      _ = run 1 ((waitFor t s.readStarted).withTodo (.rx :: rest)) := run_wait (s := s.readStarted) hc 1 t
      _ = .next _ := run_receive_ok (hcfg ▸ hc) (hhandle.trans hh) hok (Device.read_conv_unsettled hptr hunsettled _) rest
  · obtain ⟨x, -, hwait⟩ := waitFor_of_elapsed (s := s.readStarted) hf hd
    exact congrArg (fun u : State => u.dev.inFlight) hwait

/-- Settles O56: the wait ends the conversion, so the read starts with none in progress and the register is settled. -/
theorem readStartedAfterTheDelayIsTheResult : Obligations.ReadStartedAfterTheDelayIsTheResult := by
  unfold Obligations.ReadStartedAfterTheDelayIsTheResult
  intro s t waited v x rest ad sc hc hh hf hdef hd ha ht hs
  have hwait : waitFor t s = s.conversionEnded x ad := waitFor_ends hf hd ha
  have hreach : replyReaches (nextReply (s.conversionEnded x ad)) = true := by
    rw [nextReply_cons (s := s.conversionEnded x ad) hs]; rfl
  have hok : nextReply (s.conversionEnded x ad).readStarted = .ok := nextReply_cons (congrArg List.tail hs)
  have hsettled : (s.conversionEnded x ad).readStarted.dev.settled = true :=
    (Device.settled_iff _).mpr ⟨rfl, rfl, hdef⟩
  refine ⟨((s.conversionEnded x ad).readStarted.received (wordBytes x)).withTodo rest, ?_, rfl, rfl, rfl⟩
  calc run 3 s
      = run 3 (s.withTodo (.wait t :: .tx (.pointer (.lit convPtr)) :: .rx :: rest)) :=
        congrArg _ (withTodo_of_todo ht).symm
    _ = run 2 ((s.conversionEnded x ad).withTodo (.tx (.pointer (.lit convPtr)) :: .rx :: rest)) := by
        rw [run_wait hc, hwait]
    _ = run 1 ((s.conversionEnded x ad).readStarted.withTodo (.rx :: rest)) :=
        run_startRead (s := s.conversionEnded x ad) hc hh hreach 1 _
    _ = .next _ :=
        run_receive_ok (s := (s.conversionEnded x ad).readStarted) hc hh hok (Device.read_conv rfl hsettled _) rest

/-! ### The end of a run -/

theorem transmit_ne_fault (f : Frame) (s : State) (e : Fault) : transmit f s ≠ .fault e := by
  cases hh : s.handle with
  | false => rw [transmit_of_no_handle f hh]; nofun
  | true =>
    cases hd : s.dev.afterFrame s.cfg (f.bytes s) (nextReply s) with
    | some d => rw [transmit_of_afterFrame hh hd]; nofun
    | none =>
      unfold Device.afterFrame at hd
      split at hd
      next hr => rw [transmit_refused hh hr hd]; nofun
      next => cases hd

theorem receive_ne_fault (s : State) (e : Fault) : receive s ≠ .fault e := by
  cases hh : s.handle with
  | false => rw [receive_of_no_handle hh]; nofun
  | true =>
    cases hv : s.dev.read s.fresh with
    | some v => rw [receive_of_read hh hv]; nofun
    | none => cases hr : replyOk (nextReply s) <;> simp [receive, hh, hv, hr]

/-- A host step never ends a run: it answers a next state or is refused. -/
theorem hostStep_ne_fault (x : HostStep) (s : State) (e : Fault) : hostStep x s ≠ .fault e := by
  cases x with
  | tx f => exact transmit_ne_fault f s e
  | rx => exact receive_ne_fault s e
  | op o b a => rw [hostStep, present_eq_perform]; nofun
  | _ => nofun

theorem step_of_todo_nil {s : State} (hc : s.cfg.wf = true) (ht : s.todo = []) : step s = .fault .runEnded := by
  simp [step, hc, hostNext, ht]

/-- Settles O41: only the empty list of host steps faults. -/
theorem runEndsWithTheLastHostStep : Obligations.RunEndsWithTheLastHostStep := by
  unfold Obligations.RunEndsWithTheLastHostStep
  intro s hc
  cases ht : s.todo with
  | nil => exact iff_of_true (step_of_todo_nil hc ht) rfl
  | cons x rest =>
    refine iff_of_false ?_ (List.cons_ne_nil x rest)
    rw [step_cons hc ht]
    exact hostStep_ne_fault x _ _

end Sys2Proof.Machine
end
